-- ==== Sys2Proof/Word.lean ====
section
/-! DEFINITION. The words, names and small records the spec's values are made of. -/

namespace Sys2Proof

/-- One byte of an SPI frame or of a micro-word (30_encoding.md R90, R97). -/
abbrev Byte := BitVec 8

/-- A 3-bit pattern on the select lines `A2 A1 A0` (10_state.md R21, 30_encoding.md R91). -/
abbrev Pattern := BitVec 3

/-- One of the two 4-bit fields `OP`, `ARG` of a micro-word (30_encoding.md R97). -/
abbrev Nibble := BitVec 4

/-- The 32-bit unsigned position sample (10_state.md R24). -/
abbrev Count32 := BitVec 32

/-- The packed mode flags of the link (10_state.md R26). -/
abbrev ModeWord := BitVec 32

/-- The six encoder channels (00_scope.md R15: "an integer 1..6 naming one encoder chip"). -/
inductive Chan where
  | c1 | c2 | c3 | c4 | c5 | c6
  deriving DecidableEq, Repr

/-- Six like things, one per channel: `SEL_TABLE[1..6]`, `RES[1..6]`, `ENC[1..6]`. -/
structure Six (α : Type) where
  c1 : α
  c2 : α
  c3 : α
  c4 : α
  c5 : α
  c6 : α
  deriving DecidableEq, Repr, Inhabited

/-- An exact rational as a numerator and a denominator. The values the machine computes are in lowest
terms (`Machine.Ratio.of`), so that equal rationals are equal data. -/
structure Ratio where
  num : Int
  den : Nat
  deriving DecidableEq, Repr, Inhabited

/-- An angle value (10_state.md R31): the bits of a binary64, or an exact number of degrees, after the two
instantiations of `CFG.ANGLE_FN` that the spec names. Under an irrational scale, which is given by its exponent and its
number (`Scale`), the exact number is 0 or a rational multiple of the scale. -/
inductive Angle where
  | f64 (bits : BitVec 64)
  | rational (degrees : Ratio)
  | multiple (factor : Ratio) (exponent : Int) (which : Nat)
  deriving DecidableEq, Repr, Inhabited

end Sys2Proof
end

