-- ==== Sys2Proof/Config.lean ====
section
/-! DEFINITION. The configuration `CFG` of 00_scope.md R7 as plain data, and the values no source fixes:
constants without a body, of which nothing can be proved. -/

namespace Sys2Proof

/-- The mode flags that can be requested (10_state.md R26), in the order of their bits. The reserved bits are no flags:
they are requested as 0. -/
structure ModeFlags where
  CPHA       : Bool := false
  CPOL       : Bool := false
  CS_HIGH    : Bool := false
  LSB_FIRST  : Bool := false
  THREE_WIRE : Bool := false
  LOOP       : Bool := false
  NO_CS      : Bool := false
  READY      : Bool := false
  TX_DUAL    : Bool := false
  TX_QUAD    : Bool := false
  RX_DUAL    : Bool := false
  RX_QUAD    : Bool := false
  TX_OCTAL   : Bool := false
  RX_OCTAL   : Bool := false
  deriving DecidableEq, Repr, Inhabited

/-- The requested link configuration `CFG.REQ` (00_scope.md R7, 10_state.md R25 to R27). -/
structure LinkRequest where
  DEVICE   : String
  MODE     : ModeFlags
  SPEED_HZ : Nat
  BPW      : Nat
  DELAY_US : Nat
  deriving DecidableEq, Repr, Inhabited

/-- The effective configuration `LINK.EFF` (10_state.md R25). -/
structure LinkParams where
  MODE     : ModeWord
  SPEED_HZ : Nat
  BPW      : Nat
  DELAY_US : Nat
  deriving DecidableEq, Repr, Inhabited

/-- A quotient of positive numbers. -/
structure PosRatio where
  num : Nat := 1
  den : Nat := 1
  positive : 0 < num ∧ 0 < den := by decide
  deriving DecidableEq, Repr, Inhabited

/-- `CFG.SCALE`, a positive real number of degrees per count (00_scope.md R7): a quotient, or an irrational number, which
is the power of two with the given exponent times the number 1.b₀b₁b₂… whose binary digits are free
(`Config.scaleBit which`; DESIGN CHOICE, log 7). -/
inductive Scale where
  | rational (q : PosRatio)
  | irrational (exponent : Int) (which : Nat)
  deriving DecidableEq, Repr, Inhabited

/-- Which function `CFG.ANGLE_FN` is (42_encoder_commands.md R167, 92_eei_decisions.md D21): the binary64
product, the exact product, or a function of which nothing is known but the laws (`lawfulAngle`). -/
inductive AngleFn where
  | binary64
  | exactProduct
  | uninterpreted
  deriving DecidableEq, Repr, Inhabited

/-- The configuration `CFG` (00_scope.md R7): fixed before the first step, written by no operation.
`K = none` is the absent cycle count, which means 1. -/
structure Cfg where
  N : Nat
  K : Option Nat
  INTERVAL_MS : Int
  SCALE : Scale
  ANGLE_FN : AngleFn
  SEL_TABLE : Six Pattern
  IDLE_PATTERN : Pattern
  CMD_SEL_CTRL : Byte
  CMD_SET_QUAD : Byte
  CMD_SET_SEC : Byte
  CMD_READ_POS : Byte
  FILL : Byte
  REQ : LinkRequest
  INTEGRITY_CONTINUE : Bool
  deriving DecidableEq, Repr, Inhabited

/-- What the driver answers to a transfer request (40_transport.md R125, R218): done, fewer than L bytes
moved, or a device error. -/
inductive TransferAnswer where
  | done
  | short
  | deviceError
  deriving DecidableEq, Repr, Inhabited

namespace Config

/-- The configuration of the board at hand. Its fields are OPEN in the spec (00_scope.md R7; DESIGN CHOICE, log 1). -/
opaque cfg : Cfg

/-- The level of the three lines at process start: unspecified (10_state.md R51, 91_not_in_source.md N10;
DESIGN CHOICE, log 3). -/
opaque resetLevels : Pattern

/-- `LINK.EFF` before `OPEN`: unspecified (10_state.md R51, 93_implementation_defined.md U2; DESIGN CHOICE, log 5). -/
opaque resetEff : LinkParams

/-- `LINK.EFF` after an `OPEN` that failed: unspecified (40_transport.md R121). A function of the number of
free values drawn before it (DESIGN CHOICE, log 5). -/
opaque failedEff : Nat → LinkParams

/-- The driver oracle's answer to an open, a parameter write or a GPIO initialisation; `true` is success. -/
opaque driverCall : Nat → Bool

/-- The driver oracle's answer to a parameter read-back; `none` is failure. -/
opaque driverRead : Nat → Option Nat

/-- The driver oracle's answer to a transfer. -/
opaque driverTransfer : Nat → TransferAnswer

/-- The slave oracle's answer: one received byte (10_state.md R50: received bytes are unconstrained). -/
opaque slaveByte : Nat → Byte

/-- The clock oracle's answer, an integer number of milliseconds (44_rate_monitor.md R207). -/
opaque clockNow : Nat → Int

/-- The undefined bytes a receive buffer holds before its transfer (40_transport.md R125). -/
opaque undefinedByte : Nat → Byte

/-- The binary digits after the point of an irrational scale, from the most significant one: any digits (00_scope.md R7;
DESIGN CHOICE, log 7). -/
opaque scaleBit (which position : Nat) : Bool

/-- The angle of a count, for a scale, when nothing is known of `CFG.ANGLE_FN` (10_state.md R31: "may instead keep
`ANGLE_FN` uninterpreted"; DESIGN CHOICE, log 7), in degrees, or in units of the scale where that is irrational. Used
where it keeps the laws of R167 (`lawfulAngle`). -/
opaque angleFn : Scale → Count32 → Ratio

/-- The quotient by an interval of 0 ms, which only an ill-formed configuration has (44_rate_monitor.md R204; DESIGN
CHOICE, log 18). -/
opaque rateOverZero : Int → Ratio

/-- `TESTCFG` of 00_scope.md R7, with the per-vector `N`, `K` and `INTERVAL_MS`: the spec's choice for its
test vectors, not a fact of the hardware. -/
def testCfg (n : Nat) (k : Option Nat) (intervalMs : Int) : Cfg where
  N := n
  K := k
  INTERVAL_MS := intervalMs
  SCALE := .rational { num := 9, den := 200 }
  ANGLE_FN := .binary64
  SEL_TABLE := ⟨0, 1, 2, 3, 4, 5⟩
  IDLE_PATTERN := 7
  CMD_SEL_CTRL := 0x88
  CMD_SET_QUAD := 0x03
  CMD_SET_SEC := 0x00
  CMD_READ_POS := 0x60
  FILL := 0x00
  REQ := { DEVICE := "dev0", MODE := {}, SPEED_HZ := 500000, BPW := 8, DELAY_US := 0 }
  INTEGRITY_CONTINUE := false

end Config

end Sys2Proof
end

