-- ==== Sys2Proof/Machine/Fraction.lean ====
section
/-! DEFINITION. Exact rationals in lowest terms and their rounding to binary64, for the rates of
44_rate_monitor.md R203 and the angles of 42_encoder_commands.md R166, R167. -/

namespace Sys2Proof

/-- The quotient of two integers in lowest terms with a positive denominator; `den ≠ 0`. -/
def Ratio.of (num den : Int) : Ratio :=
  let g : Nat := Nat.gcd num.natAbs den.natAbs
  let n : Int := if den < 0 then -num else num
  { num := n / (g : Int), den := den.natAbs / g }

/-- `num / den` rounded to a natural number, to nearest with ties to even (10_state.md R31). -/
def divNearestEven (num den : Nat) : Nat :=
  let q := num / den
  let r := num % den
  if 2 * r > den ∨ (2 * r = den ∧ q % 2 = 1) then q + 1 else q

/-- The exponent of the leading bit of `num / den`, both positive. -/
def leadingExponent (num den : Nat) : Int :=
  let e : Int := (Nat.log2 num : Int) - (Nat.log2 den : Int)
  let scaledNum := if e < 0 then num * 2 ^ (-e).toNat else num
  let scaledDen := if e < 0 then den else den * 2 ^ e.toNat
  if scaledNum < scaledDen then e - 1 else e

/-- The exponent of the last place of the binary64 nearest to `num / den`: 52 below the leading bit, and not
below that of the subnormals. -/
def lastPlace (num den : Nat) : Int := max (leadingExponent num den - 52) (-1074)

/-- The bits of the binary64 nearest to `num / den`, ties to even, for `den > 0` (PRESUMED: IEEE 754, log 8). The
exponent field and the fraction are adjacent, so a significand that rounds up to the next power of two carries
into the exponent by the addition. -/
def nearestF64 (num den : Nat) : Nat :=
  if num = 0 then 0
  else
    let q := lastPlace num den
    let m := divNearestEven (num * 2 ^ (-q).toNat) (den * 2 ^ q.toNat)
    min ((q + 1074).toNat * 2 ^ 52 + m) 0x7FF0000000000000

/-- The digits of an irrational scale down to the given number of places after the point, as a whole number. -/
def scalePrefix (which : Nat) : Nat → Nat
  | 0 => 1
  | k + 1 => 2 * scalePrefix which k + (Config.scaleBit which k).toNat

/-- The binary64 nearest to the scale (10_state.md R31). An irrational scale lies strictly between its first 64 places and
the next number of 64 places. No number halfway between two binary64 lies there, since such a number has 53 places at
most, so that the middle of the two rounds as the scale does. -/
def Scale.toF64 : Scale → BitVec 64
  | .rational q => BitVec.ofNat 64 (nearestF64 q.num q.den)
  | .irrational e which =>
    BitVec.ofNat 64 (nearestF64 ((2 * scalePrefix which 64 + 1) * 2 ^ (e - 65).toNat) (2 ^ (65 - e).toNat))

/-- The significand and the exponent of the last place of a finite, non-negative binary64. -/
def f64Parts (bits : Nat) : Nat × Int :=
  let field : Nat := bits / 2 ^ 52
  let fraction : Nat := bits % 2 ^ 52
  if field = 0 then (fraction, -1074) else (2 ^ 52 + fraction, (field : Int) - 1075)

/-- The binary64 product of a 32-bit count (exact as a binary64) and a finite, non-negative binary64, rounded once. -/
def mulCountF64 (n : Count32) (scale : BitVec 64) : BitVec 64 :=
  let (m, q) := f64Parts scale.toNat
  BitVec.ofNat 64 (nearestF64 (n.toNat * m * 2 ^ q.toNat) (2 ^ (-q).toNat))

/-- A count times the scale, exactly (42_encoder_commands.md R167): in degrees, or in units of an irrational scale. -/
def Scale.times : Scale → Nat → Ratio
  | .rational q, n => Ratio.of (n * q.num) q.den
  | .irrational _ _, n => ⟨n, 1⟩

/-- The angle of so many degrees, or of so many units of an irrational scale. -/
def Scale.angle : Scale → Ratio → Angle
  | .rational _, r => .rational r
  | .irrational e which, r => if r.num = 0 then .rational ⟨0, 1⟩ else .multiple r e which

/-- `p ≤ q`, for positive denominators. -/
abbrev Ratio.le (p q : Ratio) : Prop := p.num * q.den ≤ q.num * p.den

/-- The laws of `ANGLE_FN` (42_encoder_commands.md R167): 0 at 0, the product at 8000, and monotone, which the positive
scale as unit does not alter; the values are in lowest terms (log 7). -/
abbrev AngleLaws (scale : Scale) (f : Count32 → Ratio) : Prop :=
  f 0 = ⟨0, 1⟩ ∧ f 8000 = scale.times 8000 ∧ (∀ m n, m ≤ n → (f m).le (f n)) ∧
    ∀ n, 0 < (f n).den ∧ Nat.Coprime (f n).num.natAbs (f n).den

/-- An angle function of which nothing is known but the laws, which any instantiation must satisfy (42_encoder_commands.md
R167): the free one where it keeps them, else the product. -/
def lawfulAngle (scale : Scale) : Count32 → Ratio :=
  if AngleLaws scale (Config.angleFn scale) then Config.angleFn scale else fun n => scale.times n.toNat

/-- `CFG.ANGLE_FN` (42_encoder_commands.md R166, R167; 10_state.md R31): the binary64 product with the binary64
nearest to `CFG.SCALE`, the exact product, or any function that keeps the laws. -/
def angleOf (cfg : Cfg) (n : Count32) : Angle :=
  match cfg.ANGLE_FN with
  | .binary64 => .f64 (mulCountF64 n cfg.SCALE.toF64)
  | .exactProduct => cfg.SCALE.angle (cfg.SCALE.times n.toNat)
  | .uninterpreted => cfg.SCALE.angle (lawfulAngle cfg.SCALE n)

/-- Kilobits per second: eight bits a byte over the interval in milliseconds (44_rate_monitor.md R202, R203). -/
def rateKbps (now before : Nat) (intervalMs : Int) : Ratio :=
  let bits : Int := ((now : Int) - (before : Int)) * 8
  if intervalMs = 0 then Config.rateOverZero bits else Ratio.of bits intervalMs

end Sys2Proof
end

