-- ==== Sys2Proof/Syntax.lean ====
section
/-! DEFINITION. The instructions: one constructor per row of opcode_table.json, and the format of each row. -/

namespace Sys2Proof

/-- The four one-byte commands (30_encoding.md R92), in the order of the index `k` of `XCMD k`. -/
inductive Cmd where
  | selCtrl
  | setQuad
  | setSec
  | readPos
  deriving DecidableEq, Repr

/-- The format a row of the opcode table is written in: a micro-word stream (R97), the expansion of a
pseudo-operation (R108), the address word (R91), the frame of one of the four commands (R92), the fetch
frame (R94), the response frame (R93). -/
inductive Format where
  | mw8
  | pseudo
  | addr3
  | cmd8 (k : Cmd)
  | fetch32
  | rsp32
  deriving DecidableEq, Repr

/-- The rows of opcode_table.json. A channel id is an integer (41_channel_select.md R142: "any integer");
a slot selector is a number (42_encoder_commands.md R166). -/
inductive Instr where
  /-- `OPEN`, 40_transport.md R121. -/
  | openLink
  /-- `DESEL`, 41_channel_select.md R144. -/
  | desel
  /-- `SEL c`, 41_channel_select.md R142. -/
  | sel (c : Int)
  /-- `SELC`, 41_channel_select.md R145. -/
  | selc
  /-- `XCMD k`, 42_encoder_commands.md R155. -/
  | xcmd (k : Cmd)
  /-- `XFETCH`, 42_encoder_commands.md R163. -/
  | xfetch
  /-- `CONV s`, 42_encoder_commands.md R166. -/
  | convAngle (slot : Nat)
  /-- `EMIT`, 43_polling_loop.md R188. -/
  | emit
  /-- `RATE`, 44_rate_monitor.md R202. -/
  | rate
  /-- `ARM`, 43_polling_loop.md R182. -/
  | arm
  /-- `DEC`, 43_polling_loop.md R189. -/
  | dec
  /-- `XCHG L, b0 .. b(L-1)`, 40_transport.md R125. -/
  | xchg (tx : List Byte)
  /-- `VLOOP`, 40_transport.md R128. -/
  | vloop
  /-- `GINIT`, 41_channel_select.md R140. -/
  | ginit
  /-- A micro-word with `OP` = 0x0, reserved (30_encoding.md R105). -/
  | reservedOp0 (arg : Nibble)
  /-- A micro-word with `OP` = 0xF, reserved (30_encoding.md R105). -/
  | reservedOpF (arg : Nibble)
  /-- The pseudo-operation `PROGRAM c`, 42_encoder_commands.md R156. -/
  | program (c : Int)
  /-- The pseudo-operation `READ c`, 42_encoder_commands.md R160. -/
  | readCount (c : Int)
  /-- The pseudo-operation `PROGCH c`, 30_encoding.md R108, 43_polling_loop.md R179. -/
  | progch (c : Int)
  /-- The pseudo-operation `POLLCH c`, 30_encoding.md R108, 43_polling_loop.md R185. -/
  | pollch (c : Int)
  /-- The address word `ADDR3` on the select lines, 30_encoding.md R91. -/
  | addr3 (p : Pattern)
  /-- The frame `CMD8(CMD_SEL_CTRL)`, 30_encoding.md R92. -/
  | cmdSelCtrl
  /-- The frame `CMD8(CMD_SET_QUAD)`, 30_encoding.md R92. -/
  | cmdSetQuad
  /-- The frame `CMD8(CMD_SET_SEC)`, 30_encoding.md R92. -/
  | cmdSetSec
  /-- The frame `CMD8(CMD_READ_POS)`, 30_encoding.md R92. -/
  | cmdReadPos
  /-- The frame `FETCH32`, 30_encoding.md R94. -/
  | fetch32
  /-- The frame `RSP32`, 30_encoding.md R93. -/
  | rsp32 (a b c d : Byte)
  deriving DecidableEq, Repr

end Sys2Proof
end

