-- ==== Sys2Proof/WellFormed.lean ====
section
/-! DEFINITION. Which instructions have an encoding (30_encoding.md R98, R105, R106, R108). -/

namespace Sys2Proof

/-- The operands lie in the ranges the encodings admit. `SEL` spells ids 0..15 (R98); `CONV` slots 0..6;
`XCHG` at most 15 literal bytes (R106); the pseudo-operations carry the 4-bit id of `SEL`, and `POLLCH` the
3-bit slot of `CONV` as well, of which 7 is reserved. `READ`'s id is no part of its encoding. -/
def Instr.wf : Instr → Bool
  | .openLink => true
  | .desel => true
  | .sel c => decide (0 ≤ c ∧ c ≤ 15)
  | .selc => true
  | .xcmd _ => true
  | .xfetch => true
  | .convAngle slot => decide (slot ≤ 6)
  | .emit => true
  | .rate => true
  | .arm => true
  | .dec => true
  | .xchg tx => decide (tx.length ≤ 15)
  | .vloop => true
  | .ginit => true
  | .reservedOp0 _ => true
  | .reservedOpF _ => true
  | .program c => decide (0 ≤ c ∧ c ≤ 15)
  | .readCount _ => true
  | .progch c => decide (0 ≤ c ∧ c ≤ 15)
  | .pollch c => decide (0 ≤ c ∧ c ≤ 6)
  | .addr3 _ => true
  | .cmdSelCtrl => true
  | .cmdSetQuad => true
  | .cmdSetSec => true
  | .cmdReadPos => true
  | .fetch32 => true
  | .rsp32 _ _ _ _ => true

end Sys2Proof
end

