-- ==== Sys2Proof/Decode.lean ====
section
/-! DEFINITION. Decoding of bytes into instructions, total, and the encoder, both from the formats and the
operation map of 30_encoding.md (R90 to R108). -/

namespace Sys2Proof

/-- Why bytes are no instruction. -/
inductive DecodeError where
  /-- No byte is left. -/
  | noWord
  /-- An `ARG` that R98 does not list for this `OP`: reserved (R105). -/
  | reservedArg (op arg : Nibble)
  /-- `XCHG` with fewer than `ARG` literal bytes after it (R106). -/
  | truncated (wanted present : Nat)
  /-- Bytes that are not the expansion of a pseudo-operation (R108). -/
  | noExpansion
  /-- Bytes that are not a frame of the named wire format (R91 to R94). -/
  | noFrame
  deriving DecidableEq, Repr

/-- `MW[7:4]` (R97). -/
def opOf (w : Byte) : Nibble := w.extractLsb' 4 4

/-- `MW[3:0]` (R97). -/
def argOf (w : Byte) : Nibble := w.extractLsb' 0 4

/-- The micro-word with the two fields (R97). -/
def microWord (op arg : Nibble) : Byte := op ++ arg

/-- The index `k` of `XCMD k` (R98). -/
def Cmd.index : Cmd → Nat
  | .selCtrl => 0
  | .setQuad => 1
  | .setSec => 2
  | .readPos => 3

/-- The command with the index `k`; `XCMD` 4..15 are reserved (R105). -/
def Cmd.ofIndex : Nat → Option Cmd
  | 0 => some .selCtrl
  | 1 => some .setQuad
  | 2 => some .setSec
  | 3 => some .readPos
  | _ => none

/-- The byte of a command, a parameter of `CFG` (R92). -/
def Cfg.cmdByte (cfg : Cfg) : Cmd → Byte
  | .selCtrl => cfg.CMD_SEL_CTRL
  | .setQuad => cfg.CMD_SET_QUAD
  | .setSec => cfg.CMD_SET_SEC
  | .readPos => cfg.CMD_READ_POS

/-- The frame `FETCH32`: four times `CFG.FILL` (R94). -/
def Cfg.fetchFrame (cfg : Cfg) : List Byte := List.replicate 4 cfg.FILL

/-- An operation whose `ARG` is 0; any other `ARG` is reserved (R105). -/
def decodeNoArg (op arg : Nibble) (i : Instr) (rest : List Byte) : Except DecodeError (Instr × List Byte) :=
  if arg = 0 then .ok (i, rest) else .error (.reservedArg op arg)

/-- The operation map (R98), with the literal bytes of `XCHG` (R106). -/
def decodeFields (op arg : Nibble) (rest : List Byte) : Except DecodeError (Instr × List Byte) :=
  match op.toNat with
  | 0x0 => .ok (.reservedOp0 arg, rest)
  | 0x1 => decodeNoArg op arg .openLink rest
  | 0x2 => decodeNoArg op arg .desel rest
  | 0x3 => .ok (.sel arg.toNat, rest)
  | 0x4 => decodeNoArg op arg .selc rest
  | 0x5 =>
    match Cmd.ofIndex arg.toNat with
    | some k => .ok (.xcmd k, rest)
    | none => .error (.reservedArg op arg)
  | 0x6 => decodeNoArg op arg .xfetch rest
  | 0x7 => if arg.toNat ≤ 6 then .ok (.convAngle arg.toNat, rest) else .error (.reservedArg op arg)
  | 0x8 => decodeNoArg op arg .emit rest
  | 0x9 => decodeNoArg op arg .rate rest
  | 0xA => decodeNoArg op arg .arm rest
  | 0xB => decodeNoArg op arg .dec rest
  | 0xC =>
    if arg.toNat ≤ rest.length then .ok (.xchg (rest.take arg.toNat), rest.drop arg.toNat)
    else .error (.truncated arg.toNat rest.length)
  | 0xD => decodeNoArg op arg .vloop rest
  | 0xE => decodeNoArg op arg .ginit rest
  | _ => .ok (.reservedOpF arg, rest)

/-- The first operation of a stream of micro-words and the bytes after it (R106: a stream decodes left to
right; the bytes after `0xCL` are data). -/
def decode : List Byte → Except DecodeError (Instr × List Byte)
  | [] => .error .noWord
  | w :: rest => decodeFields (opOf w) (argOf w) rest

/-- `SEL c` with a literal id (R98). -/
def selWord (c : Int) : Byte := microWord 0x3 (BitVec.ofInt 4 c)

/-- `CONV s` with a literal slot (R98). -/
def convWord (s : Int) : Byte := microWord 0x7 (BitVec.ofInt 4 s)

/-- `PROGRAM c` = `SEL c; XCMD 0; DESEL; SEL c; XCMD 1; DESEL; SEL c; XCMD 2; DESEL` (R108). -/
def programWords (c : Int) : List Byte :=
  [selWord c, 0x50, 0x20, selWord c, 0x51, 0x20, selWord c, 0x52, 0x20]

/-- `READ c` = `XCMD 3; XFETCH` (R108); the id is no part of the words. -/
def readWords : List Byte := [0x53, 0x60]

/-- `PROGCH c` = `DESEL; SEL c; PROGRAM c; DESEL` (R108). -/
def progchWords (c : Int) : List Byte := 0x20 :: selWord c :: (programWords c ++ [0x20])

/-- `POLLCH c` = `SEL c; READ c; CONV c; DESEL` (R108). -/
def pollchWords (c : Int) : List Byte := selWord c :: (readWords ++ [convWord c, 0x20])

/-- The pseudo-operation whose whole expansion the bytes are. `operand` is the id that the words of `READ`
leave out. -/
def decodePseudo (operand : Int) (bs : List Byte) : Except DecodeError Instr :=
  let c0 : Int := (argOf (bs.getD 0 0)).toNat
  let c1 : Int := (argOf (bs.getD 1 0)).toNat
  if bs = programWords c0 then .ok (.program c0)
  else if bs = progchWords c1 then .ok (.progch c1)
  else if bs = pollchWords c0 ∧ c0 ≤ 6 then .ok (.pollch c0)
  else if bs = readWords then .ok (.readCount operand)
  else .error .noExpansion

/-- The instruction that stands for the frame of a command. -/
def Cmd.frame : Cmd → Instr
  | .selCtrl => .cmdSelCtrl
  | .setQuad => .cmdSetQuad
  | .setSec => .cmdSetSec
  | .readPos => .cmdReadPos

/-- The address word in the low three bits of one byte (R91). -/
def decodeAddr3 : List Byte → Except DecodeError Instr
  | [b] => if b.toNat < 8 then .ok (.addr3 (b.setWidth 3)) else .error .noFrame
  | _ => .error .noFrame

/-- The response frame, first received byte first (R93). -/
def decodeRsp32 : List Byte → Except DecodeError Instr
  | [a, b, c, d] => .ok (.rsp32 a b c d)
  | _ => .error .noFrame

/-- Decoding of bytes written in a given format. A micro-word stream leaves its tail; the other formats are
one frame each. -/
def decodeAs (cfg : Cfg) (fmt : Format) (operand : Int) (bs : List Byte) : Except DecodeError (Instr × List Byte) :=
  match fmt with
  | .mw8 => decode bs
  | .pseudo => (decodePseudo operand bs).map fun i => (i, [])
  | .addr3 => (decodeAddr3 bs).map fun i => (i, [])
  | .cmd8 k => if bs = [cfg.cmdByte k] then .ok (k.frame, []) else .error .noFrame
  | .fetch32 => if bs = cfg.fetchFrame then .ok (.fetch32, []) else .error .noFrame
  | .rsp32 => (decodeRsp32 bs).map fun i => (i, [])

/-- The format of a row (the column `format` of opcode_table.json). -/
def Instr.format : Instr → Format
  | .program _ => .pseudo
  | .readCount _ => .pseudo
  | .progch _ => .pseudo
  | .pollch _ => .pseudo
  | .addr3 _ => .addr3
  | .cmdSelCtrl => .cmd8 .selCtrl
  | .cmdSetQuad => .cmd8 .setQuad
  | .cmdSetSec => .cmd8 .setSec
  | .cmdReadPos => .cmd8 .readPos
  | .fetch32 => .fetch32
  | .rsp32 _ _ _ _ => .rsp32
  | _ => .mw8

/-- The channel id that a request carries beside the bytes: `READ`'s, which its words leave out. -/
def Instr.operand : Instr → Int
  | .readCount c => c
  | _ => 0

/-- The bytes of an instruction, from the operation map (R98), the macros (R108) and the wire formats (R91 to
R94). -/
def encode (cfg : Cfg) : Instr → List Byte
  | .openLink => [0x10]
  | .desel => [0x20]
  | .sel c => [selWord c]
  | .selc => [0x40]
  | .xcmd k => [microWord 0x5 (BitVec.ofNat 4 k.index)]
  | .xfetch => [0x60]
  | .convAngle slot => [microWord 0x7 (BitVec.ofNat 4 slot)]
  | .emit => [0x80]
  | .rate => [0x90]
  | .arm => [0xA0]
  | .dec => [0xB0]
  | .xchg tx => microWord 0xC (BitVec.ofNat 4 tx.length) :: tx
  | .vloop => [0xD0]
  | .ginit => [0xE0]
  | .reservedOp0 arg => [microWord 0x0 arg]
  | .reservedOpF arg => [microWord 0xF arg]
  | .program c => programWords c
  | .readCount _ => readWords
  | .progch c => progchWords c
  | .pollch c => pollchWords c
  | .addr3 p => [p.setWidth 8]
  | .cmdSelCtrl => [cfg.cmdByte .selCtrl]
  | .cmdSetQuad => [cfg.cmdByte .setQuad]
  | .cmdSetSec => [cfg.cmdByte .setSec]
  | .cmdReadPos => [cfg.cmdByte .readPos]
  | .fetch32 => cfg.fetchFrame
  | .rsp32 a b c d => [a, b, c, d]

/-- The number of bytes of an instruction (R106; the column `length` of opcode_table.json). -/
def Instr.byteLength : Instr → Nat
  | .xchg tx => 1 + tx.length
  | .program _ => 9
  | .readCount _ => 2
  | .progch _ => 12
  | .pollch _ => 5
  | .fetch32 => 4
  | .rsp32 _ _ _ _ => 4
  | _ => 1

/-- `n` bytes of a number, the least significant first. -/
def bytesLow : Nat → Nat → List Byte
  | 0, _ => []
  | n + 1, w => BitVec.ofNat 8 w :: bytesLow n (w / 256)

/-- Do the bytes expand a pseudo-operation? -/
def isExpansion (bs : List Byte) : Bool :=
  match decodePseudo 0 bs with
  | .ok _ => true
  | .error _ => false

/-- How a row's number is laid out as bytes. The table writes a pseudo-operation and the response frame with
the first byte leftmost, so as one number its first byte is the most significant (98_reader.md); a
micro-word is one byte and whatever follows it follows upwards. The micro-word layout is padded with zeros to
the longest instruction, `XCHG 15` with 16 bytes (DESIGN CHOICE, log 16). -/
def tableLayout (nbits w : Nat) : Format × List Byte :=
  let up := bytesLow (nbits / 8) w
  if nbits = 3 then (.addr3, bytesLow 1 w)
  else if nbits = 32 then (.rsp32, up.reverse)
  else if isExpansion up.reverse then (.pseudo, up.reverse)
  else if isExpansion up then (.pseudo, up)
  else (.mw8, bytesLow 16 w)

/-- The channel id given to `READ` where only its words are given. -/
def tableOperand : Int := 1

/-- The instruction the decoder reads from a row's number. -/
def decodeTableWord (nbits w : Nat) : Option Instr :=
  let (fmt, bs) := tableLayout nbits w
  match decodeAs Config.cfg fmt tableOperand bs with
  | .ok (i, _) => some i
  | .error _ => none

end Sys2Proof
end

