-- ==== Sys2Proof/Machine/State.lean ====
section
/-! DEFINITION. The architectural state of 10_state.md as plain data, the reasons a step can stop, and the
state at process start. Fields bear the spec's own names. -/

namespace Sys2Proof.Machine

/-- `GPIO_DIR` (10_state.md R22). -/
inductive GpioDir where
  | unconfigured
  | outputs
  deriving DecidableEq, Repr

/-- `PHASE` (10_state.md R42). -/
inductive Phase where
  | setup
  | programming
  | ready
  | polling
  | done
  | halted
  deriving DecidableEq, Repr

/-- An entry of `ENC` (10_state.md R33). -/
inductive EncState where
  | uninitialized
  | configured
  deriving DecidableEq, Repr

/-- The record of a configuration-mismatch warning (10_state.md R28). -/
structure WarnRecord where
  reqMode : ModeWord
  effMode : ModeWord
  reqSpeed : Nat
  effSpeed : Nat
  reqBpw : Nat
  effBpw : Nat
  deriving DecidableEq, Repr

/-- `LINK` (10_state.md R25). -/
structure Link where
  OPENED : Bool
  REQ : LinkRequest
  EFF : LinkParams
  WARN : Option WarnRecord
  deriving DecidableEq, Repr

/-- The negotiated parameters, in the order of their negotiation (40_transport.md R121). -/
inductive Param where
  | mode
  | speedHz
  | bpw
  deriving DecidableEq, Repr

/-- The three error kinds (60_exceptions.md R215). -/
inductive ErrKind where
  | configurationError
  | ioError
  | integrityError
  deriving DecidableEq, Repr

/-- The conditions of a well-formed configuration (00_scope.md R8). -/
inductive CfgCondition where
  | channelCount
  | cycleCount
  | interval
  | tableInjective
  | idleNotInTable
  | idleBitsEqual
  deriving DecidableEq, Repr

/-- One differing position of a loopback comparison: index, sent byte, received byte (40_transport.md R128). -/
structure Diff where
  index : Nat
  sent : Byte
  received : Byte
  deriving DecidableEq, Repr

/-- The sub-code of an error with the information recorded (60_exceptions.md R215). -/
inductive ErrInfo where
  | invalidChannel (c : Int)
  | conflictingOptions (failed : List CfgCondition)
  | openDevice (device : String)
  | writeParam (p : Param) (requested : Nat)
  | readParam (p : Param)
  | gpioInit
  | transferShort (len : Nat)
  | transferDevice (len : Nat)
  | loopbackMismatch (diffs : List Diff)
  deriving DecidableEq, Repr

/-- The record of `FAULT` (10_state.md R34). -/
structure FaultRecord where
  kind : ErrKind
  code : Nat
  info : ErrInfo
  deriving DecidableEq, Repr

/-- An event of `TRACE` (10_state.md R45); `none` is an absent buffer. -/
inductive BusEvent where
  | gin
  | drv (p : Pattern)
  | xfr (a : Pattern) (tx rx : Option (List Byte))
  deriving DecidableEq, Repr

/-- An event of `OUT` (10_state.md R46). -/
inductive OutEvent where
  | warning (w : WarnRecord)
  | result (angles : List Angle)
  | report (txKbps rxKbps : Ratio)
  | fatal (kind : ErrKind) (code : Nat) (info : ErrInfo)
  | integrity (info : ErrInfo)
  deriving DecidableEq, Repr

/-- `EXIT` (10_state.md R47); the non-zero status has no stated value. -/
inductive ExitStatus where
  | running
  | exitedZero
  | exitedNonzero
  deriving DecidableEq, Repr

/-- The value an operation returned (00_scope.md R13): the model's own field, so that a harness sees it
(DESIGN CHOICE, log 9). -/
inductive Returned where
  | nothing
  | ok
  | bytes (rx : Option (List Byte))
  | count (n : Count32)
  | report (r : Option (Ratio × Ratio))
  | error (kind : ErrKind) (info : ErrInfo)
  deriving DecidableEq, Repr

/-- The answers of the environment (00_scope.md R10), each kind a list that is used up from its head. Once a
list is empty the answer is a free value of `Config`, a different one each time (`drawn`; DESIGN CHOICE, log 2). -/
structure Environment where
  calls : List Bool
  reads : List (Option Nat)
  transfers : List TransferAnswer
  bytes : List Byte
  clock : List Int
  drawn : Nat
  deriving DecidableEq, Repr

/-- What a harness issues at the operation level (60_exceptions.md R228): bytes in a format of the opcode table, with
the channel id that the words of `READ` leave out, or a call of an operation with its operands, which need
no encoding (41_channel_select.md R142: "any integer"; 20_memory.md R65: "any L ≥ 0"; DESIGN CHOICE, log 10). -/
inductive Request where
  | coded (format : Format) (operand : Int) (bytes : List Byte)
  | call (i : Instr)
  deriving DecidableEq, Repr

/-- The state: the elements of 10_state.md R20 in their order, then the model's own four: the configuration
(never written), the returned value, the environment's answers, and the harness's pending requests. -/
structure State where
  /-- The address register on the lines `A2 A1 A0` (R21). -/
  A : Pattern
  /-- Whether the lines are outputs (R22). -/
  GPIO_DIR : GpioDir
  /-- The transmit buffer; `none` is absent (R23). -/
  TXBUF : Option (List Byte)
  /-- The receive buffer; `none` is absent (R23). -/
  RXBUF : Option (List Byte)
  /-- The position sample (R24). -/
  CNT : Option Count32
  /-- The link (R25 to R29). -/
  LINK : Link
  /-- The result slots (R30). -/
  RES : Six (Option Angle)
  /-- The encoder register states (R33). -/
  ENC : Six EncState
  /-- The fault record (R34). -/
  FAULT : Option FaultRecord
  /-- The sticky duty-violation flag (R35). -/
  HAZ : Bool
  /-- Bytes sent since process start (R36). -/
  SENT : Nat
  /-- Bytes received since process start (R36). -/
  RCVD : Nat
  /-- `SENT` at the previous report (R37). -/
  SNAP_SENT : Nat
  /-- `RCVD` at the previous report (R37). -/
  SNAP_RCVD : Nat
  /-- The time of the previous report (R38). -/
  LAST_T : Option Int
  /-- The phase of the position (R40, R42). -/
  PHASE : Phase
  /-- The channel of the position, 0 where none is served (R40). -/
  CH : Nat
  /-- The step of the position (R40). -/
  STEP : Nat
  /-- Cycles still to run; `none` is the spec's "unset" (R41, 70_reset_and_hazards.md R262;
  DESIGN CHOICE, log 6). -/
  CYC : Option Nat
  /-- The history of bus events (R45). -/
  TRACE : List BusEvent
  /-- The host-visible output (R46). -/
  OUT : List OutEvent
  /-- The exit status (R47). -/
  EXIT : ExitStatus
  /-- The configuration, a parameter of the step relation (R48). -/
  CFG : Cfg
  /-- The outcome of the latest operation (00_scope.md R13). -/
  RET : Returned
  /-- The oracles' answers (00_scope.md R10). -/
  ENV : Environment
  /-- The harness's requests; while there are none, the sequencer runs (60_exceptions.md R228). -/
  REQS : List Request
  deriving DecidableEq, Repr

/-- The ways the machine is stuck. -/
inductive Fault where
  /-- Raised by the sequencer's fetch at a position that is no row of the ROM (30_encoding.md R104: "no other
  position is reachable"). Safe: the machine stops. -/
  | offRom
  deriving DecidableEq, Repr

/-- Refusals: operations the spec gives no meaning in a state (00_scope.md R13, 70_reset_and_hazards.md R262).
Each is safe: no successor is claimed. -/
inductive Refusal where
  /-- Raised by an arm of `exec` that has no meaning yet. Safe. -/
  | notModelled (mnemonic : String)
  /-- R262 (a), raised by every operation with an exchange while `LINK.OPENED = false`. Safe. -/
  | linkNotOpen
  /-- R262 (a), raised by `VLOOP` while `TRACE` holds no exchange. Safe. -/
  | noExchange
  /-- R262 (b), raised by the encoder operations outside the admitted subset of 40_transport.md R131. Safe. -/
  | linkNotAdmitted
  /-- R262 (c), raised by every operation that drives the lines while they are not outputs. Safe. -/
  | linesNotOutputs
  /-- R262 (d), raised by `SELC` and `CONV 0` with `CH = 0`. Safe. -/
  | noChannelServed
  /-- R262 (e), raised by `CONV` with `CNT = none`. Safe. -/
  | nothingToConvert
  /-- R262 (e), raised by `CONV` with a slot outside 1..6. Safe. -/
  | slotOutOfRange
  /-- R262 (f), raised by `EMIT` while a slot of 1..N is unset. Safe. -/
  | resultUnset
  /-- R262 (g), raised by `RATE` with `LAST_T = none`. Safe. -/
  | noTimeStamp
  /-- R262 (h), raised by `DEC` with `CYC` unset or 0. Safe. -/
  | noCycleLeft
  /-- R262 (i), raised by `OPEN` while the link is open. Safe. -/
  | alreadyOpen
  /-- R262 (j), raised by the reserved micro-words (30_encoding.md R105). Safe. -/
  | reservedEncoding
  /-- R262 (k), raised by every operation, and by the step, in `Done` and `Halted`. Safe. -/
  | terminalPhase
  /-- Raised by `ADDR3` with the eighth pattern, which no operation drives (30_encoding.md R105 (b)). Safe. -/
  | unusedPattern
  /-- Raised by the step on a harness request whose bytes are no instruction (30_encoding.md R106). Safe. -/
  | undecodable (why : DecodeError)
  deriving DecidableEq, Repr

/-- The outcome of `exec` and of `step`. -/
abbrev Outcome := Host.Outcome State Fault Refusal

/-- An environment that has nothing prepared: every answer is a free value. -/
def Environment.unprepared : Environment :=
  { calls := [], reads := [], transfers := [], bytes := [], clock := [], drawn := 0 }

/-- The state at process start (10_state.md R51, 70_reset_and_hazards.md R250) for a configuration, for the
unspecified level of the lines and the unspecified `LINK.EFF`. -/
def State.resetWith (cfg : Cfg) (levels : Pattern) (eff : LinkParams) (env : Environment) : State where
  A := levels
  GPIO_DIR := .unconfigured
  TXBUF := none
  RXBUF := none
  CNT := none
  LINK := { OPENED := false, REQ := cfg.REQ, EFF := eff, WARN := none }
  RES := ⟨none, none, none, none, none, none⟩
  ENC := ⟨.uninitialized, .uninitialized, .uninitialized, .uninitialized, .uninitialized, .uninitialized⟩
  FAULT := none
  HAZ := false
  SENT := 0
  RCVD := 0
  SNAP_SENT := 0
  SNAP_RCVD := 0
  LAST_T := none
  PHASE := .setup
  CH := 0
  STEP := 0
  CYC := none
  TRACE := []
  OUT := []
  EXIT := .running
  CFG := cfg
  RET := .nothing
  ENV := env
  REQS := []

/-- The state at process start, with the values no source gives left to `Config`. -/
def State.reset : State :=
  State.resetWith Config.cfg Config.resetLevels Config.resetEff Environment.unprepared

end Sys2Proof.Machine
end

