-- ==== Sys2Proof/Machine/Operands.lean ====
section
/-! DEFINITION. Operand forms: channel ids, the select table, slots, the counter's bytes, and the conditions of
a well-formed configuration. -/

namespace Sys2Proof

/-- The entry of one channel. -/
def Six.get {α : Type} (x : Six α) : Chan → α
  | .c1 => x.c1
  | .c2 => x.c2
  | .c3 => x.c3
  | .c4 => x.c4
  | .c5 => x.c5
  | .c6 => x.c6

/-- The six with the entry of one channel replaced. -/
def Six.set {α : Type} (x : Six α) (c : Chan) (v : α) : Six α :=
  match c with
  | .c1 => { x with c1 := v }
  | .c2 => { x with c2 := v }
  | .c3 => { x with c3 := v }
  | .c4 => { x with c4 := v }
  | .c5 => { x with c5 := v }
  | .c6 => { x with c6 := v }

/-- The six channels in ascending order. -/
def Chan.all : List Chan := [.c1, .c2, .c3, .c4, .c5, .c6]

/-- The id of a channel, 1..6 (00_scope.md R15). -/
def Chan.id : Chan → Int
  | .c1 => 1
  | .c2 => 2
  | .c3 => 3
  | .c4 => 4
  | .c5 => 5
  | .c6 => 6

/-- The channel with an id; every id outside 1..6 is invalid, with no clamping and no reduction
(41_channel_select.md R143). -/
def Chan.ofId (c : Int) : Option Chan := Chan.all.find? fun ch => ch.id == c

/-- Channels `1..N` in ascending order (43_polling_loop.md R179, R185). Outside the range of N that the spec specifies
they are the six channels at most, and none for `N = 0` (DESIGN CHOICE, log 33). -/
def Cfg.channels (cfg : Cfg) : List Chan := Chan.all.take cfg.N

/-- `SEL_TABLE[c]` (20_memory.md R71). -/
def Cfg.pattern (cfg : Cfg) (c : Chan) : Pattern := cfg.SEL_TABLE.get c

/-- The channel whose pattern stands on the lines, if one does (20_memory.md R72; DESIGN CHOICE, log 19). -/
def Cfg.channelOf (cfg : Cfg) (p : Pattern) : Option Chan := Chan.all.find? fun ch => cfg.pattern ch == p

/-- The number of cycles: "absent means 1" (00_scope.md R7, 43_polling_loop.md R183). -/
def Cfg.cycles (cfg : Cfg) : Nat := cfg.K.getD 1

/-- The conditions of 00_scope.md R8 with whether each holds, in the rule's order. -/
def Cfg.conditions (cfg : Cfg) : List (Machine.CfgCondition × Bool) :=
  let table := Chan.all.map cfg.pattern
  [ (.channelCount, decide (1 ≤ cfg.N ∧ cfg.N ≤ 6)),
    (.cycleCount, decide (1 ≤ cfg.cycles)),
    (.interval, decide (0 < cfg.INTERVAL_MS)),
    (.tableInjective, decide table.Nodup),
    (.idleNotInTable, decide (cfg.IDLE_PATTERN ∉ table)),
    (.idleBitsEqual, decide (cfg.IDLE_PATTERN = 0 ∨ cfg.IDLE_PATTERN = 7)) ]

/-- The conditions that fail (60_exceptions.md R215: "which condition of 00_scope.md rule R8 failed"; DESIGN
CHOICE, log 17). -/
def Cfg.failures (cfg : Cfg) : List Machine.CfgCondition :=
  (cfg.conditions.filter fun c => !c.2).map (·.1)

/-- The configuration is well formed (00_scope.md R8). -/
def Cfg.wf (cfg : Cfg) : Bool := cfg.conditions.all (·.2)

/-- `be32`: the unsigned 32-bit value of four bytes, the first the most significant (00_scope.md R11,
20_memory.md R62, 42_encoder_commands.md R164). -/
def be32 : List Byte → Count32
  | [b0, b1, b2, b3] => b0 ++ b1 ++ b2 ++ b3
  | _ => 0

/-- The packed form of requested flags: each at its bit, the bits 12 and 15 to 31 zero (10_state.md R26;
93_implementation_defined.md U11; PRESUMED positions, log 4). -/
def ModeFlags.word (f : ModeFlags) : ModeWord :=
  (BitVec.ofBoolListLE
    [ f.CPHA, f.CPOL, f.CS_HIGH, f.LSB_FIRST, f.THREE_WIRE, f.LOOP, f.NO_CS, f.READY, f.TX_DUAL, f.TX_QUAD, f.RX_DUAL,
      f.RX_QUAD, false, f.TX_OCTAL, f.RX_OCTAL ]).setWidth 32

namespace Machine

/-- The slot `CONV s` writes: slot `CH` for 0, else the literal (42_encoder_commands.md R166). -/
def State.slot (s : State) (sel : Nat) : Nat := if sel = 0 then s.CH else sel

/-- The code of an error kind (60_exceptions.md R215). -/
def ErrKind.code : ErrKind → Nat
  | .configurationError => 1
  | .ioError => 2
  | .integrityError => 3

/-- The sub-code of an error (60_exceptions.md R215). -/
def ErrInfo.subCode : ErrInfo → Nat × Nat
  | .invalidChannel _ => (1, 1)
  | .conflictingOptions _ => (1, 2)
  | .openDevice _ => (2, 1)
  | .writeParam _ _ => (2, 2)
  | .readParam _ => (2, 3)
  | .gpioInit => (2, 4)
  | .transferShort _ => (2, 5)
  | .transferDevice _ => (2, 6)
  | .loopbackMismatch _ => (3, 1)

/-- The code of the warning `ConfigMismatch` (60_exceptions.md R215). -/
def WarnRecord.code (_ : WarnRecord) : Nat := 0

/-- The sub-code of the warning `ConfigMismatch` (60_exceptions.md R215). -/
def WarnRecord.subCode (_ : WarnRecord) : Nat × Nat := (0, 1)

/-- The code of a phase (30_encoding.md R102). -/
def Phase.code : Phase → Nat
  | .setup => 0
  | .programming => 1
  | .ready => 2
  | .polling => 3
  | .done => 4
  | .halted => 5

/-- `Done` and `Halted` are terminal: no operation executes in them (10_state.md R42). -/
def Phase.terminal : Phase → Bool
  | .done => true
  | .halted => true
  | _ => false

/-- The value requested of a negotiated parameter, as a number (40_transport.md R121). -/
def Param.requested (req : LinkRequest) : Param → Nat
  | .mode => req.MODE.word.toNat
  | .speedHz => req.SPEED_HZ
  | .bpw => req.BPW

end Machine

end Sys2Proof
end

