-- ==== Sys2Proof/Machine/Flags.lean ====
section
/-! DEFINITION. The mode flags of the link and the predicates read from them, the duty checks behind `HAZ`, the
rule of `ENC`, and the loopback comparison. -/

namespace Sys2Proof.Machine

/-! The flags of `MODE` by their bit positions (10_state.md R26; PRESUMED positions, log 4). -/

/-- Clock phase. -/
def modeCPHA (m : ModeWord) : Bool := m.getLsbD 0
/-- Clock polarity. -/
def modeCPOL (m : ModeWord) : Bool := m.getLsbD 1
/-- Chip-select polarity. -/
def modeCS_HIGH (m : ModeWord) : Bool := m.getLsbD 2
/-- Bit order. -/
def modeLSB_FIRST (m : ModeWord) : Bool := m.getLsbD 3
/-- 3-wire mode. -/
def modeTHREE_WIRE (m : ModeWord) : Bool := m.getLsbD 4
/-- Loopback mode. -/
def modeLOOP (m : ModeWord) : Bool := m.getLsbD 5
/-- No-chip-select mode. -/
def modeNO_CS (m : ModeWord) : Bool := m.getLsbD 6
/-- Slave-ready mode. -/
def modeREADY (m : ModeWord) : Bool := m.getLsbD 7
/-- Transmit bit-width dual. -/
def modeTX_DUAL (m : ModeWord) : Bool := m.getLsbD 8
/-- Transmit bit-width quad. -/
def modeTX_QUAD (m : ModeWord) : Bool := m.getLsbD 9
/-- Receive bit-width dual. -/
def modeRX_DUAL (m : ModeWord) : Bool := m.getLsbD 10
/-- Receive bit-width quad. -/
def modeRX_QUAD (m : ModeWord) : Bool := m.getLsbD 11
/-- Transmit bit-width octal. -/
def modeTX_OCTAL (m : ModeWord) : Bool := m.getLsbD 13
/-- Receive bit-width octal. -/
def modeRX_OCTAL (m : ModeWord) : Bool := m.getLsbD 14

/-- `loopback` (10_state.md R29), read from the effective mode. -/
def State.loopback (s : State) : Bool := modeLOOP s.LINK.EFF.MODE

/-- `tx_multi` (10_state.md R29). -/
def State.txMulti (s : State) : Bool :=
  modeTX_DUAL s.LINK.EFF.MODE || modeTX_QUAD s.LINK.EFF.MODE || modeTX_OCTAL s.LINK.EFF.MODE

/-- `rx_multi` (10_state.md R29). -/
def State.rxMulti (s : State) : Bool :=
  modeRX_DUAL s.LINK.EFF.MODE || modeRX_QUAD s.LINK.EFF.MODE || modeRX_OCTAL s.LINK.EFF.MODE

/-- The admitted link for the encoder protocol: "no multi-width flag effective, or loopback effective"
(40_transport.md R131). -/
def State.admitted (s : State) : Bool := s.loopback || !(s.txMulti || s.rxMulti)

/-- `Present(tx)` (40_transport.md R126): the transmit buffer and whether there is a receive buffer. With both
widths multiple, transmit is the active direction. -/
def State.present (s : State) (tx : List Byte) : Option (List Byte) × Bool :=
  if s.loopback then (some tx, true)
  else if s.txMulti then (some tx, false)
  else if s.rxMulti then (none, true)
  else (some tx, true)

/-- The transmitted sequences of the exchanges at one pattern, oldest first (42_encoder_commands.md R157, R158). -/
def sentAt (p : Pattern) (trace : List BusEvent) : List (Option (List Byte)) :=
  trace.filterMap fun e =>
    match e with
    | .xfr a tx _ => if a = p then some tx else none
    | _ => none

/-- Is the latest transmitted sequence at the pattern the one byte `b`? (`last(c)` of 42_encoder_commands.md R157.) -/
def lastSentIs (p : Pattern) (b : Byte) (trace : List BusEvent) : Bool :=
  (sentAt p trace).getLast? == some (some [b])

/-- The bracketing duty broken by `SEL c`: another channel is still selected (41_channel_select.md R142,
70_reset_and_hazards.md R254). -/
def State.otherSelected (s : State) (c : Chan) : Bool :=
  Chan.all.any fun d => d != c && s.A == s.CFG.pattern d

/-- The duties broken by `XCMD k` (42_encoder_commands.md R157; 70_reset_and_hazards.md R255, R256, R257). -/
def State.commandBreach (s : State) (k : Cmd) : Bool :=
  match s.CFG.channelOf s.A with
  | none => true
  | some c =>
    match k with
    | .selCtrl => false
    | .setQuad => !lastSentIs s.A s.CFG.CMD_SEL_CTRL s.TRACE
    | .setSec => !lastSentIs s.A s.CFG.CMD_SET_QUAD s.TRACE
    | .readPos => s.ENC.get c == .uninitialized

/-- Is the latest event the read-position exchange at the pattern now on the lines? (42_encoder_commands.md R161,
R163.) -/
def State.readJustSent (s : State) : Bool :=
  match s.TRACE.getLast? with
  | some (.xfr a tx _) => a == s.A && tx == some [s.CFG.CMD_READ_POS]
  | _ => false

/-- The duties broken by `XFETCH` (42_encoder_commands.md R163; 70_reset_and_hazards.md R255, R258). -/
def State.fetchBreach (s : State) : Bool := (s.CFG.channelOf s.A).isNone || !s.readJustSent

/-- Are the three latest exchanges at the pattern the programming sequence in its order?
(42_encoder_commands.md R158.) -/
def programmedAt (cfg : Cfg) (p : Pattern) (trace : List BusEvent) : Bool :=
  (sentAt p trace).reverse.take 3 == [some [cfg.CMD_SET_SEC], some [cfg.CMD_SET_QUAD], some [cfg.CMD_SEL_CTRL]]

/-- The differing positions of two sequences, ascending from index `i` (40_transport.md R128). -/
def diffsFrom : Nat → List Byte → List Byte → List Diff
  | i, t :: ts, r :: rs => if t = r then diffsFrom (i + 1) ts rs else ⟨i, t, r⟩ :: diffsFrom (i + 1) ts rs
  | _, _, _ => []

/-- The loopback comparison; an absent buffer has nothing to compare (DESIGN CHOICE, log 13). -/
def loopDiffs (tx rx : Option (List Byte)) : List Diff := diffsFrom 0 (tx.getD []) (rx.getD [])

end Sys2Proof.Machine
end

