-- ==== Sys2Proof/Machine/Ops.lean ====
section
/-! DEFINITION. The primitives of 00_scope.md R12, the oracles' answers, the exchange, and the one way an error is
taken (60_exceptions.md R224, R227, R228). -/

namespace Sys2Proof.Machine

/-! The answers of the environment (00_scope.md R10). -/

/-- One answer of success or failure (`Drv.open`, `Drv.write`, `Drv.gpio_init`). -/
def Environment.call (e : Environment) : Bool × Environment :=
  match e.calls with
  | ok :: rest => (ok, { e with calls := rest })
  | [] => (Config.driverCall e.drawn, { e with drawn := e.drawn + 1 })

/-- One answer to a read-back (`Drv.read`). -/
def Environment.read (e : Environment) : Option Nat × Environment :=
  match e.reads with
  | v :: rest => (v, { e with reads := rest })
  | [] => (Config.driverRead e.drawn, { e with drawn := e.drawn + 1 })

/-- One answer to a transfer (`Drv.transfer`). -/
def Environment.transfer (e : Environment) : TransferAnswer × Environment :=
  match e.transfers with
  | a :: rest => (a, { e with transfers := rest })
  | [] => (Config.driverTransfer e.drawn, { e with drawn := e.drawn + 1 })

/-- One received byte. -/
def Environment.byte (e : Environment) : Byte × Environment :=
  match e.bytes with
  | b :: rest => (b, { e with bytes := rest })
  | [] => (Config.slaveByte e.drawn, { e with drawn := e.drawn + 1 })

/-- The `L` received bytes of an exchange (10_state.md R50). -/
def Environment.receive : Nat → Environment → List Byte × Environment
  | 0, e => ([], e)
  | n + 1, e =>
    let (b, e1) := e.byte
    let (bs, e2) := Environment.receive n e1
    (b :: bs, e2)

/-- `Now()`. -/
def Environment.now (e : Environment) : Int × Environment :=
  match e.clock with
  | t :: rest => (t, { e with clock := rest })
  | [] => (Config.clockNow e.drawn, { e with drawn := e.drawn + 1 })

/-- The environment whose next transfer succeeds with the given bytes. -/
def Environment.answering (e : Environment) (bs : List Byte) : Environment :=
  { e with transfers := .done :: e.transfers, bytes := bs ++ e.bytes }

/-! Primitives on the state (00_scope.md R12). -/

/-- `Drive(p)`: the pattern stands on the lines and the drive is recorded. -/
def State.drive (s : State) (p : Pattern) : State := { s with A := p, TRACE := s.TRACE ++ [.drv p] }

/-- `Emit(e)`. -/
def State.emit (s : State) (e : OutEvent) : State := { s with OUT := s.OUT ++ [e] }

/-- Sets the sticky flag `HAZ` where a duty is broken (10_state.md R35). -/
def State.noteBreach (s : State) (broken : Bool) : State := { s with HAZ := s.HAZ || broken }

/-- `LINK.EFF` of an `OPEN` that failed is unspecified (40_transport.md R121): a free value, one draw
(DESIGN CHOICE, log 5). -/
def State.forgetEff (s : State) : State :=
  { s with LINK := { s.LINK with EFF := Config.failedEff s.ENV.drawn }, ENV := { s.ENV with drawn := s.ENV.drawn + 1 } }

/-- The buffers of an exchange are allocated immediately before its transfer; the receive buffer's content is
undefined until then (10_state.md R23, 40_transport.md R125). -/
def State.allocate (s : State) (tx : Option (List Byte)) (rxPresent : Bool) (len : Nat) : State :=
  { s with
    TXBUF := tx
    RXBUF := if rxPresent then some ((List.range len).map Config.undefinedByte) else none }

/-- The buffers are released when the call returns (10_state.md R23). -/
def State.release (s : State) : State := { s with TXBUF := none, RXBUF := none }

/-- A completed exchange is counted and recorded; its buffers are released (40_transport.md R125). -/
def State.exchanged (s : State) (len : Nat) (tx rx : Option (List Byte)) : State :=
  State.release
    { s with
      RXBUF := rx
      SENT := s.SENT + len
      RCVD := s.RCVD + len
      TRACE := s.TRACE ++ [.xfr s.A tx rx] }

/-! Outcomes (00_scope.md R13). -/

/-- An operation that is not refused ends in a value or in an error, with the successor state. -/
inductive Result (α : Type) where
  | ok (v : α) (s : State)
  | error (kind : ErrKind) (info : ErrInfo) (s : State)

/-- The operations that follow are performed only after `Ok` (00_scope.md R12: `raise` "performs no later line"). -/
def Result.andThen {α β : Type} (r : Result α) (f : α → State → Result β) : Result β :=
  match r with
  | .ok v s => f v s
  | .error k i s => .error k i s

/-- The sequencer runs while no harness request is pending (60_exceptions.md R228). -/
def State.sequenced (s : State) : Bool := s.REQS.isEmpty

/-- `Halt(kind, info)` (60_exceptions.md R224): the fault record, the `FATAL` event, the phase and the exit status.
`CH` and `STEP` keep the failing position, the lines keep their pattern (R225). There is no return (R226). -/
def State.halt (s : State) (kind : ErrKind) (info : ErrInfo) : State :=
  { s with
    FAULT := some ⟨kind, kind.code, info⟩
    OUT := s.OUT ++ [.fatal kind kind.code info]
    PHASE := .halted
    EXIT := .exitedNonzero }

/-- Taking an error (60_exceptions.md R224, R228): it is the operation's returned value, and where the sequencer
executes the operation, it halts. A harness sees the value and may go on (DESIGN CHOICE, log 9). -/
def State.takeError (s : State) (kind : ErrKind) (info : ErrInfo) : State :=
  let t := { s with RET := .error kind info }
  if s.sequenced then t.halt kind info else t

/-- The state an operation leaves, its outcome recorded. -/
def Result.settle {α : Type} (r : Result α) (ret : α → Returned) : State :=
  match r with
  | .ok v s => { s with RET := ret v }
  | .error k i s => s.takeError k i

/-- The one continuation (60_exceptions.md R227, 40_transport.md R128): under the sequencer with
`CFG.INTEGRITY_CONTINUE` an integrity error is reported in `OUT` and the operation goes on with `v`; otherwise it
is raised (DEDUCED, log 12). -/
def integrityOr {α : Type} (diffs : List Diff) (v : α) (s : State) : Result α :=
  if s.sequenced && s.CFG.INTEGRITY_CONTINUE then .ok v (s.emit (.integrity (.loopbackMismatch diffs)))
  else .error .integrityError (.loopbackMismatch diffs) s

/-- `VLOOP(tx, rx)` (40_transport.md R128). -/
def verifyLoop {α : Type} (tx rx : Option (List Byte)) (v : α) (s : State) : Result α :=
  if s.loopback then
    match loopDiffs tx rx with
    | [] => .ok v s
    | d :: ds => integrityOr (d :: ds) v s
  else .ok v s

/-- `XCHG(tx)` once the link is open (40_transport.md R125, R126): one transfer of exactly L bytes each way; a
failed transfer counts nothing and records nothing; a loopback exchange is compared after it is counted. -/
def exchange (tx : List Byte) (s : State) : Result (Option (List Byte)) :=
  let len := tx.length
  let s1 := s.allocate (s.present tx).1 (s.present tx).2 len
  match s1.ENV.transfer with
  | (.short, e) => .error .ioError (.transferShort len) { s1 with ENV := e }.release
  | (.deviceError, e) => .error .ioError (.transferDevice len) { s1 with ENV := e }.release
  | (.done, e) =>
    let rx := if (s.present tx).2 then some (e.receive len).1 else none
    verifyLoop (some tx) rx rx ({ s1 with ENV := (e.receive len).2 }.exchanged len (s.present tx).1 rx)

/-- `MemWrite(c, n, v)` (00_scope.md R12): an exchange of `v` whose received bytes are ignored; the selected chip is
the one `A` selects (20_memory.md R72). -/
def memWrite (v : List Byte) (s : State) : Result Unit :=
  (exchange v s).andThen fun _ t => .ok () t

/-- `MemRead(c, n)` (00_scope.md R12): an exchange of `n` fill bytes, returning the bytes received. -/
def memRead (n : Nat) (s : State) : Result (Option (List Byte)) :=
  exchange (List.replicate n s.CFG.FILL) s

/-- An operation with its refusals (00_scope.md R13, 70_reset_and_hazards.md R262): the first condition that holds
refuses it; otherwise it ends in the given state. -/
def guarded : List (Bool × Refusal) → State → Outcome
  | [], t => .next t
  | (true, r) :: _, _ => .refused r
  | (false, _) :: rest, t => guarded rest t

/-! The refusal conditions that operations share (70_reset_and_hazards.md R262). -/

/-- R262 (k). -/
def State.inTerminal (s : State) : Bool × Refusal := (s.PHASE.terminal, .terminalPhase)

/-- R262 (a). -/
def State.linkClosed (s : State) : Bool × Refusal := (!s.LINK.OPENED, .linkNotOpen)

/-- R262 (b). -/
def State.notAdmitted (s : State) : Bool × Refusal := (!s.admitted, .linkNotAdmitted)

/-- R262 (c). -/
def State.linesUnset (s : State) : Bool × Refusal := (s.GPIO_DIR == .unconfigured, .linesNotOutputs)

/-- A condition that counts only for a valid channel id, since the id check comes first (70_reset_and_hazards.md
R262 (c), 60_exceptions.md R221). -/
def ifValid (c : Int) (check : Bool × Refusal) : Bool × Refusal := ((Chan.ofId c).isSome && check.1, check.2)

end Sys2Proof.Machine
end

