-- ==== Sys2Proof/Machine/Select.lean ====
section
/-! DEFINITION. ChannelSelector: `GINIT`, `SEL`, `SELC`, `DESEL`, and the address word `ADDR3`
(41_channel_select.md, 30_encoding.md R91). -/

namespace Sys2Proof.Machine

/-- `GINIT` (41_channel_select.md R140): the lines become outputs; no level is driven. -/
def ginitEffect (s : State) : Result Unit :=
  match s.ENV.call with
  | (false, e) => .error .ioError .gpioInit { s with ENV := e }
  | (true, e) => .ok () { s with ENV := e, GPIO_DIR := .outputs, TRACE := s.TRACE ++ [.gin] }

/-- Driving a channel's pattern, with the bracketing duty noted (41_channel_select.md R142). -/
def State.select (s : State) (c : Chan) : State :=
  (s.noteBreach (s.otherSelected c)).drive (s.CFG.pattern c)

/-- `SEL c` with the lines outputs (41_channel_select.md R142, R143): the id check, then the drive. -/
def selEffect (c : Int) (s : State) : Result Unit :=
  match Chan.ofId c with
  | none => .error .configurationError (.invalidChannel c) s
  | some ch => .ok () (s.select ch)

/-- Driving the idle pattern (41_channel_select.md R144). -/
def State.deselect (s : State) : State := s.drive s.CFG.IDLE_PATTERN

/-- `DESEL` with the lines outputs (41_channel_select.md R144): it always succeeds. -/
def deselEffect (s : State) : Result Unit := .ok () s.deselect

/-- `GINIT` (41_channel_select.md R140). -/
def execGinit (s : State) : Outcome :=
  guarded [s.inTerminal] ((ginitEffect s).settle fun _ => .ok)

/-- `SEL c` (41_channel_select.md R142). -/
def execSel (c : Int) (s : State) : Outcome :=
  guarded [s.inTerminal, ifValid c s.linesUnset] ((selEffect c s).settle fun _ => .ok)

/-- `SELC` (41_channel_select.md R145): `SEL CH`, refused with `CH = 0`. -/
def execSelc (s : State) : Outcome :=
  guarded [s.inTerminal, (s.CH == 0, .noChannelServed), ifValid s.CH s.linesUnset]
    ((selEffect s.CH s).settle fun _ => .ok)

/-- `DESEL` (41_channel_select.md R144). -/
def execDesel (s : State) : Outcome :=
  guarded [s.inTerminal, s.linesUnset] ((deselEffect s).settle fun _ => .ok)

/-- The address word `p` put on the lines: the idle pattern is a deselect, a channel's pattern is that channel's
select (30_encoding.md R91, R96; 20_memory.md R61; DESIGN CHOICE, log 14). Under an ill-formed `CFG` whose idle pattern is
also a channel's, that pattern is the deselect and notes no duty (DESIGN CHOICE, log 19). -/
def addr3Effect (p : Pattern) (s : State) : Result Unit :=
  if p = s.CFG.IDLE_PATTERN then .ok () s.deselect
  else
    match s.CFG.channelOf p with
    | some c => .ok () (s.select c)
    | none => .ok () s

/-- `ADDR3` (30_encoding.md R91). The eighth pattern is driven by no operation (R105 (b)). -/
def execAddr3 (p : Pattern) (s : State) : Outcome :=
  guarded
    [ s.inTerminal, s.linesUnset,
      (p != s.CFG.IDLE_PATTERN && (s.CFG.channelOf p).isNone, .unusedPattern) ]
    ((addr3Effect p s).settle fun _ => .ok)

end Sys2Proof.Machine
end

