-- ==== Sys2Proof/Machine/Encoder.lean ====
section
/-! DEFINITION. EncoderDevice: `XCMD`, `PROGRAM`, `XFETCH`, `READ`, `CONV` (42_encoder_commands.md), and the frames
`CMD8`, `FETCH32`, `RSP32` those operations put on the bus (30_encoding.md R92 to R95). -/

namespace Sys2Proof.Machine

/-- `ENC[c] <- Configured` where the sequence on the selected channel is complete (42_encoder_commands.md R158). -/
def State.noteProgrammed (s : State) : State :=
  match s.CFG.channelOf s.A with
  | some c => if programmedAt s.CFG s.A s.TRACE then { s with ENC := s.ENC.set c .configured } else s
  | none => s

/-- `XCMD k` on an open, admitted link (42_encoder_commands.md R155): the duties, one byte out, the answer ignored. -/
def xcmdEffect (k : Cmd) (s : State) : Result Unit :=
  (memWrite [s.CFG.cmdByte k] (s.noteBreach (s.commandBreach k))).andThen fun _ t =>
  .ok () (if k = .setSec then t.noteProgrammed else t)

/-- `XFETCH` on an open, admitted link (42_encoder_commands.md R163, R164). -/
def xfetchEffect (s : State) : Result Count32 :=
  (memRead 4 (s.noteBreach s.fetchBreach)).andThen fun rx t =>
  .ok (be32 (rx.getD [])) { t with CNT := some (be32 (rx.getD [])) }

/-- One bracket of `PROGRAM c` (42_encoder_commands.md R156). -/
def programBracket (c : Int) (k : Cmd) (s : State) : Result Unit :=
  (selEffect c s).andThen fun _ s1 =>
  (xcmdEffect k s1).andThen fun _ s2 =>
  deselEffect s2

/-- `PROGRAM c` (42_encoder_commands.md R156): the id check before any bus activity, then three brackets. -/
def programEffect (c : Int) (s : State) : Result Unit :=
  match Chan.ofId c with
  | none => .error .configurationError (.invalidChannel c) s
  | some _ =>
    (programBracket c .selCtrl s).andThen fun _ s1 =>
    (programBracket c .setQuad s1).andThen fun _ s2 =>
    programBracket c .setSec s2

/-- `READ c` (42_encoder_commands.md R160): the id is checked and compared with the lines; nothing is selected (R162). -/
def readEffect (c : Int) (s : State) : Result Count32 :=
  match Chan.ofId c with
  | none => .error .configurationError (.invalidChannel c) s
  | some ch =>
    (xcmdEffect .readPos (s.noteBreach (s.A != s.CFG.pattern ch))).andThen fun _ t =>
    xfetchEffect t

/-- `CONV` into a slot (42_encoder_commands.md R166): the sample is converted and consumed (defaults: log 28). -/
def convEffect (slot : Nat) (s : State) : Result Unit :=
  match Chan.ofId slot, s.CNT with
  | some c, some n => .ok () { s with RES := s.RES.set c (some (angleOf s.CFG n)), CNT := none }
  | _, _ => .ok () s

/-- `XCMD k` (42_encoder_commands.md R155). -/
def execXcmd (k : Cmd) (s : State) : Outcome :=
  guarded [s.inTerminal, s.linkClosed, s.notAdmitted] ((xcmdEffect k s).settle fun _ => .ok)

/-- `XFETCH` (42_encoder_commands.md R163). -/
def execXfetch (s : State) : Outcome :=
  guarded [s.inTerminal, s.linkClosed, s.notAdmitted] ((xfetchEffect s).settle .count)

/-- `PROGRAM c` (42_encoder_commands.md R156). -/
def execProgram (c : Int) (s : State) : Outcome :=
  guarded [s.inTerminal, ifValid c s.linesUnset, ifValid c s.linkClosed, ifValid c s.notAdmitted]
    ((programEffect c s).settle fun _ => .ok)

/-- `READ c` (42_encoder_commands.md R160). -/
def execReadCount (c : Int) (s : State) : Outcome :=
  guarded [s.inTerminal, ifValid c s.linkClosed, ifValid c s.notAdmitted] ((readEffect c s).settle .count)

/-- `CONV s` (42_encoder_commands.md R166). -/
def execConvAngle (sel : Nat) (s : State) : Outcome :=
  guarded
    [ s.inTerminal, (s.slot sel == 0, .noChannelServed),
      ((Chan.ofId (s.slot sel)).isNone, .slotOutOfRange), (s.CNT.isNone, .nothingToConvert) ]
    ((convEffect (s.slot sel) s).settle fun _ => .ok)

/-- The frame `CMD8(CMD_SEL_CTRL)`: the first exchange of `PROGRAM` (30_encoding.md R92). -/
def execCmdSelCtrl (s : State) : Outcome :=
  guarded [s.inTerminal, s.linkClosed, s.notAdmitted] ((xcmdEffect .selCtrl s).settle fun _ => .ok)

/-- The frame `CMD8(CMD_SET_QUAD)`: the second exchange of `PROGRAM` (30_encoding.md R92). -/
def execCmdSetQuad (s : State) : Outcome :=
  guarded [s.inTerminal, s.linkClosed, s.notAdmitted] ((xcmdEffect .setQuad s).settle fun _ => .ok)

/-- The frame `CMD8(CMD_SET_SEC)`: the third exchange of `PROGRAM` (30_encoding.md R92). -/
def execCmdSetSec (s : State) : Outcome :=
  guarded [s.inTerminal, s.linkClosed, s.notAdmitted] ((xcmdEffect .setSec s).settle fun _ => .ok)

/-- The frame `CMD8(CMD_READ_POS)`: the first exchange of `READ` (30_encoding.md R92). -/
def execCmdReadPos (s : State) : Outcome :=
  guarded [s.inTerminal, s.linkClosed, s.notAdmitted] ((xcmdEffect .readPos s).settle fun _ => .ok)

/-- The frame `FETCH32`: what the block transmits during the data fetch (30_encoding.md R94; DESIGN CHOICE,
log 14). -/
def execFetch32 (s : State) : Outcome :=
  guarded [s.inTerminal, s.linkClosed, s.notAdmitted] ((xfetchEffect s).settle .count)

/-- The frame `RSP32`: what the selected chip returns during the data fetch (30_encoding.md R93), that is, the data
fetch in which the slave answers these four bytes (DESIGN CHOICE, log 14). -/
def execRsp32 (a b c d : Byte) (s : State) : Outcome :=
  guarded [s.inTerminal, s.linkClosed, s.notAdmitted]
    ((xfetchEffect { s with ENV := s.ENV.answering [a, b, c, d] }).settle .count)

end Sys2Proof.Machine
end

