-- ==== Sys2Proof/Machine/Polling.lean ====
section
/-! DEFINITION. PollingLoop: `ARM`, `EMIT`, `DEC` (43_polling_loop.md), and the pseudo-operations `PROGCH`, `POLLCH`
(30_encoding.md R108). -/

namespace Sys2Proof.Machine

/-- `ARM` (43_polling_loop.md R182): the cycle counter and the first time stamp. -/
def armEffect (s : State) : Result Unit :=
  .ok () { s with CYC := some s.CFG.cycles, LAST_T := some s.ENV.now.1, ENV := s.ENV.now.2 }

/-- The angles of channels `1..N` that are set, in channel order (43_polling_loop.md R188). -/
def State.angles (s : State) : List Angle := s.CFG.channels.filterMap s.RES.get

/-- Is a slot of `1..N` unset? (43_polling_loop.md R188.) -/
def State.someUnset (s : State) : Bool := s.CFG.channels.any fun c => (s.RES.get c).isNone

/-- `EMIT` with every slot set (43_polling_loop.md R188). -/
def emitEffect (s : State) : Result Unit := .ok () (s.emit (.result s.angles))

/-- `DEC` with a cycle left (43_polling_loop.md R189). -/
def decEffect (s : State) : Result Unit := .ok () { s with CYC := s.CYC.map (· - 1) }

/-- Is `CYC` unset or 0? (70_reset_and_hazards.md R262 (h).) -/
def State.noCycle (s : State) : Bool :=
  match s.CYC with
  | none => true
  | some n => n == 0

/-- `PROGCH c` = `DESEL; SEL c; PROGRAM c; DESEL` (30_encoding.md R108, 43_polling_loop.md R179; DESIGN CHOICE,
log 15). -/
def progchEffect (c : Int) (s : State) : Result Unit :=
  (deselEffect s).andThen fun _ s1 =>
  (selEffect c s1).andThen fun _ s2 =>
  (programEffect c s2).andThen fun _ s3 =>
  deselEffect s3

/-- `POLLCH c` = `SEL c; READ c; CONV c; DESEL` (30_encoding.md R108, 43_polling_loop.md R185; DESIGN CHOICE,
log 15). -/
def pollchEffect (c : Int) (s : State) : Result Unit :=
  (selEffect c s).andThen fun _ s1 =>
  (readEffect c s1).andThen fun _ s2 =>
  (convEffect c.toNat s2).andThen fun _ s3 =>
  deselEffect s3

/-- `ARM` (43_polling_loop.md R182). -/
def execArm (s : State) : Outcome := guarded [s.inTerminal] ((armEffect s).settle fun _ => .ok)

/-- `EMIT` (43_polling_loop.md R188). -/
def execEmit (s : State) : Outcome :=
  guarded [s.inTerminal, (s.someUnset, .resultUnset)] ((emitEffect s).settle fun _ => .ok)

/-- `DEC` (43_polling_loop.md R189). -/
def execDec (s : State) : Outcome :=
  guarded [s.inTerminal, (s.noCycle, .noCycleLeft)] ((decEffect s).settle fun _ => .ok)

/-- `PROGCH c` (30_encoding.md R108). Its `DESEL` comes before the id check of its `SEL`. -/
def execProgch (c : Int) (s : State) : Outcome :=
  guarded [s.inTerminal, s.linesUnset, ifValid c s.linkClosed, ifValid c s.notAdmitted]
    ((progchEffect c s).settle fun _ => .ok)

/-- `POLLCH c` (30_encoding.md R108). -/
def execPollch (c : Int) (s : State) : Outcome :=
  guarded [s.inTerminal, ifValid c s.linesUnset, ifValid c s.linkClosed, ifValid c s.notAdmitted]
    ((pollchEffect c s).settle fun _ => .ok)

end Sys2Proof.Machine
end

