-- ==== Sys2Proof/Machine/Rate.lean ====
section
/-! DEFINITION. RateMonitor: `RATE` (44_rate_monitor.md). -/

namespace Sys2Proof.Machine

/-- A report is emitted and becomes the new baseline (44_rate_monitor.md R202). -/
def State.reported (s : State) (now : Int) (tx rx : Ratio) : State :=
  { s with
    OUT := s.OUT ++ [.report tx rx]
    LAST_T := some now
    SNAP_SENT := s.SENT
    SNAP_RCVD := s.RCVD }

/-- The rates since the snapshot (44_rate_monitor.md R202). -/
def State.rates (s : State) : Ratio × Ratio :=
  (rateKbps s.SENT s.SNAP_SENT s.CFG.INTERVAL_MS, rateKbps s.RCVD s.SNAP_RCVD s.CFG.INTERVAL_MS)

/-- `RATE` with a time stamp (44_rate_monitor.md R202): a strict comparison on integers. -/
def rateEffect (s : State) : Result (Option (Ratio × Ratio)) :=
  let now := s.ENV.now.1
  let t := { s with ENV := s.ENV.now.2 }
  match s.LAST_T with
  | none => .ok none t
  | some last =>
    if now - last > s.CFG.INTERVAL_MS then .ok (some s.rates) (t.reported now s.rates.1 s.rates.2) else .ok none t

/-- `RATE` (44_rate_monitor.md R202). -/
def execRate (s : State) : Outcome :=
  guarded [s.inTerminal, (s.LAST_T.isNone, .noTimeStamp)] ((rateEffect s).settle .report)

end Sys2Proof.Machine
end

