-- ==== Sys2Proof/Machine/Reserved.lean ====
section
/-! DEFINITION. The reserved micro-words (30_encoding.md R105 (d)): "reserved by this spec; a model refuses them". -/

namespace Sys2Proof.Machine

/-- `OP` = 0x0 (30_encoding.md R105 (d), 70_reset_and_hazards.md R262 (j)). -/
def execReservedOp0 (_arg : Nibble) (_s : State) : Outcome := .refused .reservedEncoding

/-- `OP` = 0xF (30_encoding.md R105 (d), 70_reset_and_hazards.md R262 (j)). -/
def execReservedOpF (_arg : Nibble) (_s : State) : Outcome := .refused .reservedEncoding

end Sys2Proof.Machine
end

