-- ==== Sys2Proof/Machine/Transport.lean ====
section
/-! DEFINITION. TransportLink: `OPEN`, `XCHG`, `VLOOP` (40_transport.md). -/

namespace Sys2Proof.Machine

/-- One parameter written and read back (40_transport.md R121). -/
def negotiate (p : Param) (s : State) : Result Nat :=
  match s.ENV.call with
  | (false, e) => .error .ioError (.writeParam p (p.requested s.LINK.REQ)) { s with ENV := e }
  | (true, e) =>
    match e.read with
    | (none, e') => .error .ioError (.readParam p) { s with ENV := e' }
    | (some v, e') => .ok v { s with ENV := e' }

/-- The device open call (40_transport.md R121). -/
def openDevice (s : State) : Result Unit :=
  match s.ENV.call with
  | (false, e) => .error .ioError (.openDevice s.LINK.REQ.DEVICE) { s with ENV := e }
  | (true, e) => .ok () { s with ENV := e }

/-- The seven driver calls of `OPEN` in their order (60_exceptions.md R221); the values read back. -/
def negotiateAll (s : State) : Result (Nat × Nat × Nat) :=
  (openDevice s).andThen fun _ s1 =>
  (negotiate .mode s1).andThen fun mode s2 =>
  (negotiate .speedHz s2).andThen fun speed s3 =>
  (negotiate .bpw s3).andThen fun bpw s4 =>
  .ok (mode, speed, bpw) s4

/-- The warning of an open whose read-backs are `eff`, if one differs from its request (10_state.md R28). -/
def mismatch (req : LinkRequest) (eff : LinkParams) : Option WarnRecord :=
  if eff.MODE ≠ req.MODE.word ∨ eff.SPEED_HZ ≠ req.SPEED_HZ ∨ eff.BPW ≠ req.BPW then
    some ⟨req.MODE.word, eff.MODE, req.SPEED_HZ, eff.SPEED_HZ, req.BPW, eff.BPW⟩
  else none

/-- The link is open with its effective values, and a mismatch is surfaced (40_transport.md R121, R123). The delay is
carried, not negotiated (R122). The driver may return any word as mode. -/
def State.opened (s : State) (mode speed bpw : Nat) : State :=
  let eff : LinkParams := ⟨BitVec.ofNat 32 mode, speed, bpw, s.LINK.REQ.DELAY_US⟩
  match mismatch s.LINK.REQ eff with
  | none => { s with LINK := { s.LINK with OPENED := true, EFF := eff } }
  | some w => { s with LINK := { s.LINK with OPENED := true, EFF := eff, WARN := some w } }.emit (.warning w)

/-- `OPEN` on a link that is not open (40_transport.md R121). -/
def openEffect (s : State) : Result Unit :=
  match negotiateAll s with
  | .ok (mode, speed, bpw) t => .ok () (t.opened mode speed bpw)
  | .error k i t => .error k i t.forgetEff

/-- `OPEN` (40_transport.md R121). -/
def execOpenLink (s : State) : Outcome :=
  guarded [s.inTerminal, (s.LINK.OPENED, .alreadyOpen)] ((openEffect s).settle fun _ => .ok)

/-- `XCHG tx` (40_transport.md R125). -/
def execXchg (tx : List Byte) (s : State) : Outcome :=
  guarded [s.inTerminal, s.linkClosed] ((exchange tx s).settle .bytes)

/-- The buffers of the latest exchange of `TRACE` (40_transport.md R128). -/
def State.latestExchange (s : State) : Option (Option (List Byte) × Option (List Byte)) :=
  s.TRACE.reverse.findSome? fun e =>
    match e with
    | .xfr _ tx rx => some (tx, rx)
    | _ => none

/-- `VLOOP` on the latest exchange (40_transport.md R128). -/
def verifyLatest (s : State) : Result Unit :=
  match s.latestExchange with
  | some (tx, rx) => verifyLoop tx rx () s
  | none => .ok () s

/-- `VLOOP` (40_transport.md R128). -/
def execVloop (s : State) : Outcome :=
  guarded [s.inTerminal, (s.latestExchange.isNone, .noExchange)] ((verifyLatest s).settle fun _ => .ok)

end Sys2Proof.Machine
end

