-- ==== Sys2Proof/Machine/Dispatch.lean ====
section
/-! DEFINITION. One arm per instruction: the meaning it calls. -/

namespace Sys2Proof.Machine

def exec (i : Instr) (s : State) : Host.Outcome State Fault Refusal :=
  match i with
  | .openLink => Sys2Proof.Machine.execOpenLink s
  | .desel => Sys2Proof.Machine.execDesel s
  | .sel c => Sys2Proof.Machine.execSel c s
  | .selc => Sys2Proof.Machine.execSelc s
  | .xcmd k => Sys2Proof.Machine.execXcmd k s
  | .xfetch => Sys2Proof.Machine.execXfetch s
  | .convAngle slot => Sys2Proof.Machine.execConvAngle slot s
  | .emit => Sys2Proof.Machine.execEmit s
  | .rate => Sys2Proof.Machine.execRate s
  | .arm => Sys2Proof.Machine.execArm s
  | .dec => Sys2Proof.Machine.execDec s
  | .xchg tx => Sys2Proof.Machine.execXchg tx s
  | .vloop => Sys2Proof.Machine.execVloop s
  | .ginit => Sys2Proof.Machine.execGinit s
  | .reservedOp0 arg => Sys2Proof.Machine.execReservedOp0 arg s
  | .reservedOpF arg => Sys2Proof.Machine.execReservedOpF arg s
  | .program c => Sys2Proof.Machine.execProgram c s
  | .readCount c => Sys2Proof.Machine.execReadCount c s
  | .progch c => Sys2Proof.Machine.execProgch c s
  | .pollch c => Sys2Proof.Machine.execPollch c s
  | .addr3 p => Sys2Proof.Machine.execAddr3 p s
  | .cmdSelCtrl => Sys2Proof.Machine.execCmdSelCtrl s
  | .cmdSetQuad => Sys2Proof.Machine.execCmdSetQuad s
  | .cmdSetSec => Sys2Proof.Machine.execCmdSetSec s
  | .cmdReadPos => Sys2Proof.Machine.execCmdReadPos s
  | .fetch32 => Sys2Proof.Machine.execFetch32 s
  | .rsp32 a b c d => Sys2Proof.Machine.execRsp32 a b c d s

end Sys2Proof.Machine
end

