-- ==== Sys2Proof/Machine/Sequencer.lean ====
section
/-! DEFINITION. The sequencer: its ROM, the successor of a position, the check of the configuration, what a step adds
around an operation, and how a harness's request is issued (30_encoding.md R104, 43_polling_loop.md R175 to R191,
60_exceptions.md R228). -/

namespace Sys2Proof.Machine

/-- The twelve micro-words of `(Programming, c, 0..11)` (30_encoding.md R104). -/
def programmingWords : List Byte :=
  [0x20, 0x40, 0x40, 0x50, 0x20, 0x40, 0x51, 0x20, 0x40, 0x52, 0x20, 0x20]

/-- The five micro-words of `(Polling, c, 0..4)` (30_encoding.md R104). -/
def pollingWords : List Byte := [0x40, 0x53, 0x60, 0x70, 0x20]

/-- The sequencer ROM (30_encoding.md R104) for `n` channels: the micro-word at a position; `none` off the ROM. -/
def romWord (n : Nat) : Phase → Nat → Nat → Option Byte
  | .setup, 0, 0 => some 0x10
  | .setup, 0, 1 => some 0xE0
  | .programming, c, step => if 1 ≤ c ∧ c ≤ n then programmingWords[step]? else none
  | .ready, 0, 0 => some 0xA0
  | .polling, 0, 5 => some 0x80
  | .polling, 0, 6 => some 0x90
  | .polling, 0, 7 => some 0xB0
  | .polling, c, step => if 1 ≤ c ∧ c ≤ n then pollingWords[step]? else none
  | _, _, _ => none

/-- A position `(PHASE, CH, STEP)` (10_state.md R40). -/
abbrev Position := Phase × Nat × Nat

/-- `next(pc)` for `n` channels and the cycle count left by `DEC` (43_polling_loop.md R177); off the ROM the position
stays. -/
def nextPosition (n : Nat) (cyc : Option Nat) : Phase → Nat → Nat → Position
  | .setup, 0, 0 => (.setup, 0, 1)
  | .setup, 0, 1 => (.programming, 1, 0)
  | .programming, c, 11 => if c < n then (.programming, c + 1, 0) else (.ready, 0, 0)
  | .programming, c, step => (.programming, c, step + 1)
  | .ready, 0, 0 => (.polling, 1, 0)
  | .polling, 0, 5 => (.polling, 0, 6)
  | .polling, 0, 6 => (.polling, 0, 7)
  | .polling, 0, 7 => if cyc.getD 0 > 0 then (.polling, 1, 0) else (.done, 0, 0)
  | .polling, c, 4 => if c < n then (.polling, c + 1, 0) else (.polling, 0, 5)
  | .polling, c, step => (.polling, c, step + 1)
  | phase, c, step => (phase, c, step)

/-- The position after `Ok` (43_polling_loop.md R177). -/
def State.nextPos (s : State) : Position := nextPosition s.CFG.N s.CYC s.PHASE s.CH s.STEP

/-- `pc <- next(pc)`; entering `Done` the exit status becomes `exited(0)` (43_polling_loop.md R190). -/
def State.advance (s : State) : State :=
  { s with
    PHASE := s.nextPos.1
    CH := s.nextPos.2.1
    STEP := s.nextPos.2.2
    EXIT := if s.nextPos.1 = .done then .exitedZero else s.EXIT }

/-- What a sequencer step adds to its operation: the position advances, unless the operation halted the machine
(43_polling_loop.md R175, R191). -/
def advanceUnlessHalted : Outcome → Outcome
  | .next t => .next (if t.PHASE = .halted then t else t.advance)
  | .fault r => .fault r
  | .refused r => .refused r

/-- Does the check of the configuration fail here? It is the first action at `(Setup, 0, 0)`, before any driver call
(43_polling_loop.md R178, 60_exceptions.md R217, R221). -/
def State.configRejected (s : State) : Bool :=
  s.PHASE == .setup && s.CH == 0 && s.STEP == 0 && !s.CFG.wf

/-- The machine halted by the check of its configuration (60_exceptions.md R217). -/
def State.rejectConfig (s : State) : State :=
  s.takeError .configurationError (.conflictingOptions s.CFG.failures)

/-- The refusal of bytes that are no instruction: a reserved `ARG` is a reserved encoding (30_encoding.md R105 (d)). -/
def refusalOf : DecodeError → Refusal
  | .reservedArg _ _ => .reservedEncoding
  | e => .undecodable e

/-- One step of the sequencer (43_polling_loop.md R175). -/
def stepSequencer (s : State) : Outcome :=
  if s.PHASE.terminal then .refused .terminalPhase
  else
    match romWord s.CFG.N s.PHASE s.CH s.STEP with
    | none => .fault .offRom
    | some w =>
      if s.configRejected then .next s.rejectConfig
      else
        match decode [w] with
        | .error e => .refused (refusalOf e)
        | .ok (i, _) => advanceUnlessHalted (exec i s)

/-- The request for the rest of a stream, if there is a rest. -/
def restOf (format : Format) (operand : Int) : List Byte → List Request
  | [] => []
  | b :: bs => [.coded format operand (b :: bs)]

/-- The first operation of a request, and what is left of the request after it. -/
def Request.first (cfg : Cfg) : Request → Except DecodeError (Instr × List Request)
  | .call i => .ok (i, [])
  | .coded format operand bs =>
    match decodeAs cfg format operand bs with
    | .ok (i, rest) => .ok (i, restOf format operand rest)
    | .error e => .error e

/-- What a harness step adds to its operation: the operation is no longer pending; the position stays
(60_exceptions.md R228). -/
def issued (left : List Request) : Outcome → Outcome
  | .next t => .next { t with REQS := left }
  | .fault f => .fault f
  | .refused f => .refused f

/-- One operation issued by a harness (60_exceptions.md R228). -/
def stepHarness (r : Request) (rs : List Request) (s : State) : Outcome :=
  match r.first s.CFG with
  | .error e => .refused (refusalOf e)
  | .ok (i, left) => issued (left ++ rs) (exec i s)

/-- The request for a row's number (log 16). -/
def tableRequest (nbits w : Nat) : Request :=
  .coded (tableLayout nbits w).1 tableOperand (tableLayout nbits w).2

end Sys2Proof.Machine
end

