-- ==== Sys2Proof/Machine/Step.lean ====
section
/-! DEFINITION. One step: the operation a harness has pending, else the sequencer's. -/

namespace Sys2Proof.Machine

/-- One step of the machine (43_polling_loop.md R175, 60_exceptions.md R228). -/
def step (s : State) : Host.Outcome State Fault Refusal :=
  match s.REQS with
  | r :: rs => stepHarness r rs s
  | [] => stepSequencer s

/-- The instruction with a row's number is the next one issued. The ROM cannot be written (20_memory.md R78), so
it is issued as a harness's request. -/
def State.withFetchWord (s : State) (nbits w : Nat) : State :=
  { s with REQS := tableRequest nbits w :: s.REQS }

end Sys2Proof.Machine
end

