-- ==== Sys2Proof/Safety.lean ====
section
/-! DEFINITION. The terms in which claims are stated: which operation may write what, the refusals of
70_reset_and_hazards.md R262, the invariants of 10_state.md R52, and the sequencer's own invariant. -/

namespace Sys2Proof

/-! What an operation may write, from the rules that name the writers of each element. -/

/-- The operations that drive the lines (10_state.md R21; the pseudo-operations through `SEL` and `DESEL`). -/
def Instr.drives : Instr → Bool
  | .desel | .sel _ | .selc | .addr3 _ | .program _ | .progch _ | .pollch _ => true
  | _ => false

/-- The operations with an exchange (10_state.md R36; 20_memory.md R67). -/
def Instr.exchanges : Instr → Bool
  | .xcmd _ | .xfetch | .xchg _ | .program _ | .readCount _ | .progch _ | .pollch _ => true
  | .cmdSelCtrl | .cmdSetQuad | .cmdSetSec | .cmdReadPos | .fetch32 | .rsp32 _ _ _ _ => true
  | _ => false

/-- The operations that write `CNT` (10_state.md R24, 42_encoder_commands.md R166). -/
def Instr.writesCount : Instr → Bool
  | .xfetch | .readCount _ | .pollch _ | .fetch32 | .rsp32 _ _ _ _ | .convAngle _ => true
  | _ => false

/-- The operations that write `RES` (10_state.md R30). -/
def Instr.writesResult : Instr → Bool
  | .convAngle _ | .pollch _ => true
  | _ => false

/-- The operations that can complete the programming sequence (10_state.md R33, 42_encoder_commands.md R158). -/
def Instr.programs : Instr → Bool
  | .xcmd k => k == .setSec
  | .cmdSetSec | .program _ | .progch _ => true
  | _ => false

/-- The operations that check an ordering duty (70_reset_and_hazards.md R254 to R258). -/
def Instr.checksDuty : Instr → Bool
  | .sel _ | .selc | .addr3 _ | .xcmd _ | .xfetch | .program _ | .readCount _ | .progch _ | .pollch _ => true
  | .cmdSelCtrl | .cmdSetQuad | .cmdSetSec | .cmdReadPos | .fetch32 | .rsp32 _ _ _ _ => true
  | _ => false

/-- The operations that ask an oracle (00_scope.md R10). -/
def Instr.asks : Instr → Bool
  | .openLink | .ginit | .arm | .rate => true
  | i => i.exchanges

/-- The command that an operation of one exchange sends, if it is one of the four (42_encoder_commands.md R155). -/
def Instr.command : Instr → Option Cmd
  | .xcmd k => some k
  | .cmdSelCtrl => some .selCtrl
  | .cmdSetQuad => some .setQuad
  | .cmdSetSec => some .setSec
  | .cmdReadPos => some .readPos
  | _ => none

/-- Is the exchange of an operation of one exchange the data fetch? (42_encoder_commands.md R163.) -/
def Instr.fetches : Instr → Bool
  | .xfetch | .fetch32 => true
  | _ => false

namespace Machine

/-! The refusals (70_reset_and_hazards.md R262). -/

/-- The prerequisites of an exchange of the encoder protocol: R262 (a), (b). -/
def State.linkReady (s : State) : Prop := s.LINK.OPENED = true ∧ s.admitted = true

/-- A valid channel id (41_channel_select.md R143). -/
def validId (c : Int) : Prop := 1 ≤ c ∧ c ≤ 6

/-- The prerequisites of each operation, the negation of R262's list, outside the terminal phases of R262 (k). An
operation with a channel id needs none of them when the id is invalid, since it then ends in its error. -/
def prerequisites (i : Instr) (s : State) : Prop :=
  match i with
  | .openLink => s.LINK.OPENED = false
  | .desel => s.GPIO_DIR = .outputs
  | .sel c => validId c → s.GPIO_DIR = .outputs
  | .selc => s.CH ≠ 0 ∧ (validId s.CH → s.GPIO_DIR = .outputs)
  | .xcmd _ => s.linkReady
  | .xfetch => s.linkReady
  | .convAngle sel => validId (if sel = 0 then s.CH else sel) ∧ s.CNT ≠ none
  | .emit => ∀ c ∈ s.CFG.channels, s.RES.get c ≠ none
  | .rate => s.LAST_T ≠ none
  | .arm => True
  | .dec => ∃ n, s.CYC = some (n + 1)
  | .xchg _ => s.LINK.OPENED = true
  | .vloop => ∃ a tx rx, BusEvent.xfr a tx rx ∈ s.TRACE
  | .ginit => True
  | .reservedOp0 _ => False
  | .reservedOpF _ => False
  | .program c => validId c → s.GPIO_DIR = .outputs ∧ s.linkReady
  | .readCount c => validId c → s.linkReady
  | .progch c => s.GPIO_DIR = .outputs ∧ (validId c → s.linkReady)
  | .pollch c => validId c → s.GPIO_DIR = .outputs ∧ s.linkReady
  | .addr3 p => s.GPIO_DIR = .outputs ∧ (p = s.CFG.IDLE_PATTERN ∨ ∃ c, p = s.CFG.pattern c)
  | .cmdSelCtrl => s.linkReady
  | .cmdSetQuad => s.linkReady
  | .cmdSetSec => s.linkReady
  | .cmdReadPos => s.linkReady
  | .fetch32 => s.linkReady
  | .rsp32 _ _ _ _ => s.linkReady

/-! The situations in which claims about one operation are stated. -/

/-- The machine is in no terminal phase (10_state.md R42). -/
def State.live (s : State) : Prop := s.PHASE ≠ .done ∧ s.PHASE ≠ .halted

/-- The next transfer of `n` bytes succeeds with the received bytes `rx` and leaves the environment `e'`. -/
def Environment.moves (e : Environment) (n : Nat) (rx : List Byte) (e' : Environment) : Prop :=
  e.transfer.1 = .done ∧ e.transfer.2.receive n = (rx, e')

/-- A channel other than `c` is selected (41_channel_select.md R142). -/
def State.holdsOther (s : State) (c : Chan) : Prop := ∃ d, d ≠ c ∧ s.A = s.CFG.pattern d

/-- The latest exchange at the pattern on the lines sent the one byte `b` (42_encoder_commands.md R157). -/
def State.lastSent (s : State) (b : Byte) : Prop := (sentAt s.A s.TRACE).getLast? = some (some [b])

/-- The duties of `XCMD k` (42_encoder_commands.md R157): a channel is selected, its previous command is the one
that must precede, and a channel that is read is configured. -/
def State.commandDuty (s : State) (k : Cmd) : Prop :=
  ∃ c, s.A = s.CFG.pattern c ∧
    match k with
    | .selCtrl => True
    | .setQuad => s.lastSent s.CFG.CMD_SEL_CTRL
    | .setSec => s.lastSent s.CFG.CMD_SET_QUAD
    | .readPos => s.ENC.get c = .configured

/-- The duties of `XFETCH` (42_encoder_commands.md R163): a channel is selected and the event just before is the
read-position exchange at the same address. -/
def State.fetchDuty (s : State) : Prop :=
  (∃ c, s.A = s.CFG.pattern c) ∧ ∃ before rx, s.TRACE = before ++ [.xfr s.A (some [s.CFG.CMD_READ_POS]) rx]

/-- The single exchange of an operation that has exactly one, answered by the environment: the bytes it asks to
send. -/
def frameOf (cfg : Cfg) : Instr → Option (List Byte)
  | .xchg tx => some tx
  | .xcmd k => some [cfg.cmdByte k]
  | .cmdSelCtrl => some [cfg.CMD_SEL_CTRL]
  | .cmdSetQuad => some [cfg.CMD_SET_QUAD]
  | .cmdSetSec => some [cfg.CMD_SET_SEC]
  | .cmdReadPos => some [cfg.CMD_READ_POS]
  | .xfetch => some [cfg.FILL, cfg.FILL, cfg.FILL, cfg.FILL]
  | .fetch32 => some [cfg.FILL, cfg.FILL, cfg.FILL, cfg.FILL]
  | _ => none

/-- The duties of an operation of one exchange; a raw `XCHG` has none (70_reset_and_hazards.md R255). -/
def State.keepsDuty (s : State) (i : Instr) : Prop :=
  (∀ k, i.command = some k → s.commandDuty k) ∧ (i.fetches = true → s.fetchDuty)

/-- The I/O error of a transfer that fails (40_transport.md R125, 60_exceptions.md R215). -/
def transferError (a : TransferAnswer) (len : Nat) : ErrInfo :=
  if a = .short then .transferShort len else .transferDevice len

/-- Operations issued one after the other until one ends in an error or is refused (00_scope.md R12). -/
def inSequence : List Instr → State → Outcome
  | [], s => .next s
  | i :: rest, s =>
    match exec i s with
    | .next t =>
      match t.RET with
      | .error _ _ => .next t
      | _ => inSequence rest t
    | o => o

/-- `n` steps lead from one state to another. -/
def stepsTo : Nat → State → State → Prop
  | 0, s, t => s = t
  | n + 1, s, t => ∃ u, step s = .next u ∧ stepsTo n u t

/-! The history of the bus. -/

/-- The patterns driven, oldest first (10_state.md R45). -/
def drives (trace : List BusEvent) : List Pattern :=
  trace.filterMap fun e =>
    match e with
    | .drv p => some p
    | _ => none

/-- The stutter-free projection of a history, for lines that stand at `a` before it (00_scope.md R15). -/
def stutterFree : Option Pattern → List BusEvent → List BusEvent
  | _, [] => []
  | a, .drv p :: rest => if a = some p then stutterFree a rest else .drv p :: stutterFree (some p) rest
  | a, e :: rest => e :: stutterFree a rest

/-- Between the drives of two different patterns there is one of the idle pattern (20_memory.md R74,
70_reset_and_hazards.md R254). -/
def bracketed (idle : Pattern) : List Pattern → Prop
  | p :: q :: rest => (p = q ∨ p = idle ∨ q = idle) ∧ bracketed idle (q :: rest)
  | _ => True

/-- The bytes an event moves in each direction (10_state.md R36). -/
def BusEvent.length : BusEvent → Nat
  | .xfr _ (some tx) _ => tx.length
  | .xfr _ none (some rx) => rx.length
  | _ => 0

/-- The bytes the exchanges of a history moved in each direction. -/
def bytesMoved (trace : List BusEvent) : Nat := (trace.map BusEvent.length).sum

/-- A pattern that an operation may drive: the idle pattern or a channel's (30_encoding.md R91). -/
def usedPattern (cfg : Cfg) (p : Pattern) : Prop := p = cfg.IDLE_PATTERN ∨ ∃ c, p = cfg.pattern c

/-- What holds of every state that the machine can reach, whoever issues the operations (10_state.md R52 (a), (b),
(c), (e), and the rules named). -/
structure MachineInv (s : State) : Prop where
  /-- R52 (b). -/
  counters : s.SENT = s.RCVD ∧ s.SNAP_SENT ≤ s.SENT ∧ s.SNAP_RCVD ≤ s.RCVD
  /-- The accumulator counts the bytes of the recorded exchanges (40_transport.md R125). -/
  accounted : s.SENT = bytesMoved s.TRACE
  /-- R52 (c). -/
  fault : s.FAULT ≠ none ↔ s.PHASE = .halted
  /-- The exit status follows the phase (10_state.md R47). -/
  exit : (s.EXIT = .exitedZero ↔ s.PHASE = .done) ∧ (s.EXIT = .exitedNonzero ↔ s.PHASE = .halted)
  /-- R52 (e), buffers. -/
  buffers : s.TXBUF = none ∧ s.RXBUF = none
  /-- R52 (a): once the lines were driven, they hold the pattern last driven, a channel's or the idle one. -/
  lines : ∀ p, (drives s.TRACE).getLast? = some p → s.A = p ∧ usedPattern s.CFG p
  /-- The lines are outputs before first use (10_state.md R22). -/
  outputs : s.GPIO_DIR = .unconfigured → drives s.TRACE = []
  /-- The link is open before an exchange (70_reset_and_hazards.md R262 (a)), and no warning precedes its opening. -/
  link : s.LINK.OPENED = false → (∀ a tx rx, BusEvent.xfr a tx rx ∉ s.TRACE) ∧ s.LINK.WARN = none
  /-- `REQ` is a copy of `CFG.REQ` (10_state.md R25). -/
  request : s.LINK.REQ = s.CFG.REQ
  /-- While no duty was broken, the drives are bracketed (20_memory.md R74). -/
  brackets : s.HAZ = false → bracketed s.CFG.IDLE_PATTERN (drives s.TRACE)

/-! The sequencer's run: what holds at each position of the ROM (30_encoding.md R104). -/

/-- The lines stand at the pattern of channel `c`. -/
def State.atChannel (s : State) (c : Nat) : Prop := ∃ ch, Chan.ofId c = some ch ∧ s.A = s.CFG.pattern ch

/-- The lines stand at the idle pattern. -/
def State.atIdle (s : State) : Prop := s.A = s.CFG.IDLE_PATTERN

/-- The channels up to `c` are programmed. -/
def State.configuredUpTo (s : State) (c : Nat) : Prop := ∀ ch : Chan, ch.id ≤ c → s.ENC.get ch = .configured

/-- The slots of the channels up to `c` are set. -/
def State.storedUpTo (s : State) (c : Nat) : Prop := ∀ ch : Chan, ch.id ≤ c → s.RES.get ch ≠ none

/-- The latest transmitted sequences on channel `c`, newest first, begin with the given ones. -/
def State.sentTo (s : State) (c : Nat) (txs : List (List Byte)) : Prop :=
  ∀ ch, Chan.ofId c = some ch → (sentAt (s.CFG.pattern ch) s.TRACE).reverse.take txs.length = txs.map some

/-- The `RESULT` events of `OUT`. -/
def resultsIn (out : List OutEvent) : Nat :=
  out.countP fun e =>
    match e with
    | .result _ => true
    | _ => false

/-- Cycles completed when `cyc` are left. -/
def State.cyclesDone (s : State) : Nat := s.CFG.cycles - s.CYC.getD 0

/-- What holds at `(Programming, c, step)` (42_encoder_commands.md R156, R158; 43_polling_loop.md R179). -/
def State.programmingAt (s : State) (c step : Nat) : Prop :=
  match step with
  | 0 => s.configuredUpTo (c - 1) ∧ s.SENT = 3 * (c - 1)
  | 1 => s.configuredUpTo (c - 1) ∧ s.SENT = 3 * (c - 1) ∧ s.atIdle
  | 2 => s.configuredUpTo (c - 1) ∧ s.SENT = 3 * (c - 1) ∧ s.atChannel c
  | 3 => s.configuredUpTo (c - 1) ∧ s.SENT = 3 * (c - 1) ∧ s.atChannel c
  | 4 => s.configuredUpTo (c - 1) ∧ s.SENT = 3 * (c - 1) + 1 ∧ s.atChannel c ∧ s.sentTo c [[s.CFG.CMD_SEL_CTRL]]
  | 5 => s.configuredUpTo (c - 1) ∧ s.SENT = 3 * (c - 1) + 1 ∧ s.atIdle ∧ s.sentTo c [[s.CFG.CMD_SEL_CTRL]]
  | 6 => s.configuredUpTo (c - 1) ∧ s.SENT = 3 * (c - 1) + 1 ∧ s.atChannel c ∧ s.sentTo c [[s.CFG.CMD_SEL_CTRL]]
  | 7 =>
    s.configuredUpTo (c - 1) ∧ s.SENT = 3 * (c - 1) + 2 ∧ s.atChannel c ∧
      s.sentTo c [[s.CFG.CMD_SET_QUAD], [s.CFG.CMD_SEL_CTRL]]
  | 8 =>
    s.configuredUpTo (c - 1) ∧ s.SENT = 3 * (c - 1) + 2 ∧ s.atIdle ∧
      s.sentTo c [[s.CFG.CMD_SET_QUAD], [s.CFG.CMD_SEL_CTRL]]
  | 9 =>
    s.configuredUpTo (c - 1) ∧ s.SENT = 3 * (c - 1) + 2 ∧ s.atChannel c ∧
      s.sentTo c [[s.CFG.CMD_SET_QUAD], [s.CFG.CMD_SEL_CTRL]]
  | 10 => s.configuredUpTo c ∧ s.SENT = 3 * c ∧ s.atChannel c
  | 11 => s.configuredUpTo c ∧ s.SENT = 3 * c ∧ s.atIdle
  | _ => False

/-- What holds at `(Polling, c, step)` (43_polling_loop.md R185 to R189). -/
def State.pollingAt (s : State) (c step : Nat) : Prop :=
  let start := 3 * s.CFG.N + 5 * s.CFG.N * s.cyclesDone
  match c, step with
  | 0, 5 =>
    s.CNT = none ∧ s.atIdle ∧ s.SENT = start + 5 * s.CFG.N ∧ s.storedUpTo s.CFG.N ∧ resultsIn s.OUT = s.cyclesDone
  | 0, 6 => s.CNT = none ∧ s.atIdle ∧ s.SENT = start + 5 * s.CFG.N ∧ resultsIn s.OUT = s.cyclesDone + 1
  | 0, 7 => s.CNT = none ∧ s.atIdle ∧ s.SENT = start + 5 * s.CFG.N ∧ resultsIn s.OUT = s.cyclesDone + 1
  | c + 1, step =>
    c + 1 ≤ s.CFG.N ∧ resultsIn s.OUT = s.cyclesDone ∧
      match step with
      | 0 => s.CNT = none ∧ s.atIdle ∧ s.SENT = start + 5 * c ∧ s.storedUpTo c
      | 1 => s.CNT = none ∧ s.atChannel (c + 1) ∧ s.SENT = start + 5 * c ∧ s.storedUpTo c
      | 2 => s.CNT = none ∧ s.atChannel (c + 1) ∧ s.SENT = start + 5 * c + 1 ∧ s.storedUpTo c ∧ s.readJustSent = true
      | 3 => s.CNT ≠ none ∧ s.atChannel (c + 1) ∧ s.SENT = start + 5 * (c + 1) ∧ s.storedUpTo c
      | 4 => s.CNT = none ∧ s.atChannel (c + 1) ∧ s.SENT = start + 5 * (c + 1) ∧ s.storedUpTo (c + 1)
      | _ => False
  | _, _ => False

/-- The link is open and the lines are outputs, under a well-formed configuration. -/
def State.broughtUp (s : State) : Prop :=
  s.CFG.wf = true ∧ s.LINK.OPENED = true ∧ s.GPIO_DIR = .outputs

/-- What holds at the position of the sequencer (70_reset_and_hazards.md R252; 10_state.md R52 (d), (e);
43_polling_loop.md R181, R190). -/
def State.positionHolds (s : State) : Prop :=
  match s.PHASE with
  | .setup =>
    s.CH = 0 ∧ s.TRACE = [] ∧ s.SENT = 0 ∧ s.CNT = none ∧ resultsIn s.OUT = 0 ∧
      ((s.STEP = 0 ∧ s.LINK.OPENED = false) ∨ (s.STEP = 1 ∧ s.CFG.wf = true ∧ s.LINK.OPENED = true))
  | .programming =>
    s.broughtUp ∧ s.CNT = none ∧ resultsIn s.OUT = 0 ∧ 1 ≤ s.CH ∧ s.CH ≤ s.CFG.N ∧ s.programmingAt s.CH s.STEP
  | .ready =>
    s.broughtUp ∧ s.CNT = none ∧ resultsIn s.OUT = 0 ∧ s.CH = 0 ∧ s.STEP = 0 ∧
      s.configuredUpTo s.CFG.N ∧ s.atIdle ∧ s.SENT = 3 * s.CFG.N
  | .polling =>
    s.broughtUp ∧ s.configuredUpTo s.CFG.N ∧ s.LAST_T ≠ none ∧
      (∃ n, s.CYC = some n ∧ 1 ≤ n ∧ n ≤ s.CFG.cycles) ∧ s.pollingAt s.CH s.STEP
  | .done =>
    s.CH = 0 ∧ s.STEP = 0 ∧ s.LINK.OPENED = true ∧ s.CNT = none ∧ s.configuredUpTo s.CFG.N ∧ s.atIdle ∧
      s.CYC = some 0 ∧ s.SENT = 3 * s.CFG.N + 5 * s.CFG.N * s.CFG.cycles ∧ resultsIn s.OUT = s.CFG.cycles
  | .halted => True

/-- The invariant of the sequencer's own run: nothing is issued by hand, no duty is broken, and the position's facts
hold (70_reset_and_hazards.md R259). -/
structure SequencerInv (s : State) : Prop where
  alone : s.REQS = []
  noBreach : s.HAZ = false
  noFault : s.PHASE ≠ .halted → s.FAULT = none
  position : s.positionHolds

/-- Steps still to run to `Done` from a position of the ROM; a whole run takes `2 + 12N + 1 + K(5N + 3)` steps
(43_polling_loop.md R177, R193). -/
def State.stepsLeft (s : State) : Nat :=
  let n := s.CFG.N
  let cycle := 5 * n + 3
  match s.PHASE with
  | .setup => (2 - s.STEP) + 12 * n + 1 + s.CFG.cycles * cycle
  | .programming => 12 * (n - s.CH) + (12 - s.STEP) + 1 + s.CFG.cycles * cycle
  | .ready => 1 + s.CFG.cycles * cycle
  | .polling =>
    if s.CH = 0 then (8 - s.STEP) + (s.CYC.getD 0 - 1) * cycle
    else 5 * (n - s.CH) + (5 - s.STEP) + 3 + (s.CYC.getD 0 - 1) * cycle
  | .done => 0
  | .halted => 0

end Machine

end Sys2Proof
end

