-- ==== Sys2Proof/Certificates/Slice0/Obligations.lean ====
section
/-! DEFINITION. The statements about the model. Where a statement says `exec i s = .next { s with … }`, every field
not named keeps its value: that is the statement's frame. -/

open Sys2Proof Sys2Proof.Machine

/-! Encodings (30_encoding.md). -/

/-- A micro-word stream decodes to the instruction it encodes, whatever follows it (R97, R98, R106). -/
def Obligations.StreamDecodeOfEncode : Prop :=
  ∀ (cfg : Cfg) (i : Instr) (rest : List Byte),
    i.format = .mw8 → i.wf = true → decode (encode cfg i ++ rest) = .ok (i, rest)

/-- In the format of its row, every well-formed instruction is decoded from its encoding (R91 to R94, R98, R108). -/
def Obligations.FormatDecodeOfEncode : Prop :=
  ∀ (cfg : Cfg) (i : Instr), i.wf = true → decodeAs cfg i.format i.operand (encode cfg i) = .ok (i, [])

/-- Only encodings decode: what the decoder reads is well formed, is of the format asked for, and encodes back to
the bytes read. -/
def Obligations.DecodedBytesAreEncodings : Prop :=
  ∀ (cfg : Cfg) (fmt : Format) (operand : Int) (bs rest : List Byte) (i : Instr),
    decodeAs cfg fmt operand bs = .ok (i, rest) → i.wf = true ∧ i.format = fmt ∧ bs = encode cfg i ++ rest

/-- Words of the operation map (R98), of `XCHG` (R106, R107), of the macros (R108) and of the wire formats. -/
def Obligations.SampleWordsDecode : Prop :=
  decode [0b00010000] = .ok (.openLink, []) ∧
  decode [0b00110101] = .ok (.sel 5, []) ∧
  decode [0b01000000] = .ok (.selc, []) ∧
  decode [0b01010010] = .ok (.xcmd .setSec, []) ∧
  decode [0b01110110] = .ok (.convAngle 6, []) ∧
  decode [0xC2, 0x12, 0x34, 0xD0] = .ok (.xchg [0x12, 0x34], [0xD0]) ∧
  decode [0b11100000] = .ok (.ginit, []) ∧
  decodePseudo 4 [0x53, 0x60] = .ok (.readCount 4) ∧
  decodePseudo 0 [0x32, 0x53, 0x60, 0x72, 0x20] = .ok (.pollch 2) ∧
  decodeAddr3 [0b110] = .ok (.addr3 0b110) ∧
  decodeRsp32 [0x00, 0x00, 0x1F, 0x40] = .ok (.rsp32 0x00 0x00 0x1F 0x40)

/-- Reserved micro-words are refused by the step (R105 (d)): `OP` 0x0 and 0xF, `XCMD` 4..15, `CONV` 7..15, and a
non-zero `ARG` on the operations without an operand. -/
def Obligations.ReservedWordsAreRefused : Prop :=
  ∀ (s : State) (operand : Int) (w : Byte) (rest : List Byte) (rs : List Request),
    s.REQS = .coded .mw8 operand (w :: rest) :: rs →
    opOf w = 0x0 ∨ opOf w = 0xF ∨ (opOf w = 0x5 ∧ 4 ≤ (argOf w).toNat) ∨ (opOf w = 0x7 ∧ 7 ≤ (argOf w).toNat) ∨
      (opOf w ∈ [0x1, 0x2, 0x4, 0x6, 0x8, 0x9, 0xA, 0xB, 0xD, 0xE] ∧ argOf w ≠ 0) →
    step s = .refused .reservedEncoding

/-! Steps. -/

/-- A harness's request runs the instruction its bytes decode to, or that it calls: the step is `exec` of it, with the
rest of the stream left pending and the position kept (60_exceptions.md R228). -/
def Obligations.HarnessStepRunsTheDecodedInstruction : Prop :=
  ∀ (s : State) (rs left : List Request) (i : Instr),
    (∃ fmt operand bs rest, s.REQS = .coded fmt operand bs :: rs ∧
      decodeAs s.CFG fmt operand bs = .ok (i, rest) ∧ left = restOf fmt operand rest) ∨
    (s.REQS = .call i :: rs ∧ left = []) →
      (∀ t, exec i s = .next t → step s = .next { t with REQS := left ++ rs }) ∧
      (∀ r, exec i s = .refused r → step s = .refused r) ∧
      ∀ f, exec i s = .fault f → step s = .fault f

/-- The sequencer runs the micro-word at its position and then moves to the successor, unless the operation halted
the machine (43_polling_loop.md R175). -/
def Obligations.SequencerStepRunsTheRomWord : Prop :=
  ∀ (s : State) (w : Byte) (i : Instr),
    s.REQS = [] → s.live → ¬ (s.PHASE = .setup ∧ s.CH = 0 ∧ s.STEP = 0 ∧ s.CFG.wf = false) →
    romWord s.CFG.N s.PHASE s.CH s.STEP = some w → decode [w] = .ok (i, []) →
      (∀ t, exec i s = .next t → t.PHASE ≠ .halted → step s = .next t.advance) ∧
      (∀ t, exec i s = .next t → t.PHASE = .halted → step s = .next t) ∧
      ∀ r, exec i s = .refused r → step s = .refused r

/-- The sequencer ROM, row by row (30_encoding.md R104); no other position holds a word, and no position the sequencer
comes to is off the ROM. -/
def Obligations.RomHoldsTheSequence : Prop :=
  (∀ s : State, SequencerInv s → s.live → romWord s.CFG.N s.PHASE s.CH s.STEP ≠ none) ∧
  ∀ n : Nat,
    romWord n .setup 0 0 = some 0x10 ∧ romWord n .setup 0 1 = some 0xE0 ∧ romWord n .ready 0 0 = some 0xA0 ∧
    romWord n .polling 0 5 = some 0x80 ∧ romWord n .polling 0 6 = some 0x90 ∧ romWord n .polling 0 7 = some 0xB0 ∧
    (∀ c, 1 ≤ c → c ≤ n → ∀ step, romWord n .programming c step =
      [0x20, 0x40, 0x40, 0x50, 0x20, 0x40, 0x51, 0x20, 0x40, 0x52, 0x20, 0x20][step]?) ∧
    (∀ c, 1 ≤ c → c ≤ n → ∀ step, romWord n .polling c step = [0x40, 0x53, 0x60, 0x70, 0x20][step]?) ∧
    ∀ phase c step, romWord n phase c step ≠ none →
      (phase = .setup ∧ c = 0 ∧ step ≤ 1) ∨ (phase = .programming ∧ 1 ≤ c ∧ c ≤ n ∧ step ≤ 11) ∨
      (phase = .ready ∧ c = 0 ∧ step = 0) ∨ (phase = .polling ∧ 1 ≤ c ∧ c ≤ n ∧ step ≤ 4) ∨
      (phase = .polling ∧ c = 0 ∧ 5 ≤ step ∧ step ≤ 7)

/-- The successor of a position (43_polling_loop.md R177), as the advance of the position writes it. -/
def Obligations.AdvanceFollowsNext : Prop :=
  ∀ s : State,
    let pc := (s.advance.PHASE, s.advance.CH, s.advance.STEP)
    (s.PHASE = .setup → s.CH = 0 → s.STEP = 0 → pc = (.setup, 0, 1)) ∧
    (s.PHASE = .setup → s.CH = 0 → s.STEP = 1 → pc = (.programming, 1, 0)) ∧
    (s.PHASE = .programming → s.STEP ≤ 10 → pc = (.programming, s.CH, s.STEP + 1)) ∧
    (s.PHASE = .programming → s.STEP = 11 → s.CH < s.CFG.N → pc = (.programming, s.CH + 1, 0)) ∧
    (s.PHASE = .programming → s.STEP = 11 → s.CH = s.CFG.N → pc = (.ready, 0, 0)) ∧
    (s.PHASE = .ready → s.CH = 0 → s.STEP = 0 → pc = (.polling, 1, 0)) ∧
    (s.PHASE = .polling → 1 ≤ s.CH → s.STEP ≤ 3 → pc = (.polling, s.CH, s.STEP + 1)) ∧
    (s.PHASE = .polling → 1 ≤ s.CH → s.STEP = 4 → s.CH < s.CFG.N → pc = (.polling, s.CH + 1, 0)) ∧
    (s.PHASE = .polling → 1 ≤ s.CH → s.STEP = 4 → s.CH = s.CFG.N → pc = (.polling, 0, 5)) ∧
    (s.PHASE = .polling → s.CH = 0 → s.STEP = 5 → pc = (.polling, 0, 6)) ∧
    (s.PHASE = .polling → s.CH = 0 → s.STEP = 6 → pc = (.polling, 0, 7)) ∧
    (∀ n, s.PHASE = .polling → s.CH = 0 → s.STEP = 7 → s.CYC = some (n + 1) → pc = (.polling, 1, 0)) ∧
    (s.PHASE = .polling → s.CH = 0 → s.STEP = 7 → s.CYC = some 0 →
      s.advance = { s with PHASE := .done, CH := 0, STEP := 0, EXIT := .exitedZero }) ∧
    s.advance =
      { s with PHASE := s.advance.PHASE, CH := s.advance.CH, STEP := s.advance.STEP, EXIT := s.advance.EXIT } ∧
    (s.advance.PHASE ≠ .done → s.advance.EXIT = s.EXIT)

/-- `Done` and `Halted` are terminal: no operation executes and the machine takes no step (10_state.md R42,
70_reset_and_hazards.md R262 (k)). -/
def Obligations.TerminalPhasesRunNothing : Prop :=
  ∀ s : State, ¬ s.live → (∀ i, ∃ r, exec i s = .refused r) ∧ (∃ r, step s = .refused r)

/-! Transport (40_transport.md). -/

/-- `OPEN` when all seven driver calls succeed (R121, R122, R123): the link is open with the values read back, and a
mismatch is surfaced in `LINK.WARN` and in `OUT`. The mode requested is the packed form of the requested flags, with the
bits that are no flag 0 (10_state.md R26; the positions are PRESUMED, log 4). -/
def Obligations.OpenNegotiatesTheLink : Prop :=
  ∀ (s : State) (e1 e2 e3 e4 e5 e6 e7 : Environment) (mode : ModeWord) (speed bpw : Nat),
    s.live → s.LINK.OPENED = false →
    s.ENV.call = (true, e1) →
    e1.call = (true, e2) → e2.read = (some mode.toNat, e3) →
    e3.call = (true, e4) → e4.read = (some speed, e5) →
    e5.call = (true, e6) → e6.read = (some bpw, e7) →
    let req := s.LINK.REQ
    let f := req.MODE
    let requested := f.word
    let eff : LinkParams := ⟨mode, speed, bpw, req.DELAY_US⟩
    let w : WarnRecord := ⟨requested, mode, req.SPEED_HZ, speed, req.BPW, bpw⟩
    (∀ bit, requested.getLsbD bit =
      [f.CPHA, f.CPOL, f.CS_HIGH, f.LSB_FIRST, f.THREE_WIRE, f.LOOP, f.NO_CS, f.READY, f.TX_DUAL, f.TX_QUAD, f.RX_DUAL,
        f.RX_QUAD, false, f.TX_OCTAL, f.RX_OCTAL].getD bit false) ∧
    ((mode = requested ∧ speed = req.SPEED_HZ ∧ bpw = req.BPW) →
      exec .openLink s =
        .next { s with LINK := { s.LINK with OPENED := true, EFF := eff }, ENV := e7, RET := .ok }) ∧
    (¬ (mode = requested ∧ speed = req.SPEED_HZ ∧ bpw = req.BPW) →
      exec .openLink s =
        .next { s with
          LINK := { s.LINK with OPENED := true, EFF := eff, WARN := some w },
          OUT := s.OUT ++ [.warning w], ENV := e7, RET := .ok })

/-- `OPEN` ends at the first of its seven driver calls that fails, in their order, with the I/O error of that call;
the link stays closed and only `LINK.EFF`, unspecified then and a free value (log 5), may differ (R121,
60_exceptions.md R221 (2)). -/
def Obligations.OpenFailsAtTheFirstFailingCall : Prop :=
  ∀ s : State, s.live → s.LINK.OPENED = false →
    let req := s.LINK.REQ
    let failsWith := fun (e : Environment) (info : ErrInfo) =>
      ∃ eff drawn, exec .openLink s =
        .next (({ s with LINK := { s.LINK with EFF := eff }, ENV := { e with drawn := drawn } } : State).takeError
          .ioError info)
    (∀ e1, s.ENV.call = (false, e1) → failsWith e1 (.openDevice req.DEVICE)) ∧
    (∀ e1 e2, s.ENV.call = (true, e1) → e1.call = (false, e2) → failsWith e2 (.writeParam .mode req.MODE.word.toNat)) ∧
    (∀ e1 e2 e3, s.ENV.call = (true, e1) → e1.call = (true, e2) → e2.read = (none, e3) →
      failsWith e3 (.readParam .mode)) ∧
    (∀ e1 e2 e3 e4 m, s.ENV.call = (true, e1) → e1.call = (true, e2) → e2.read = (some m, e3) →
      e3.call = (false, e4) → failsWith e4 (.writeParam .speedHz req.SPEED_HZ)) ∧
    (∀ e1 e2 e3 e4 e5 m, s.ENV.call = (true, e1) → e1.call = (true, e2) → e2.read = (some m, e3) →
      e3.call = (true, e4) → e4.read = (none, e5) → failsWith e5 (.readParam .speedHz)) ∧
    (∀ e1 e2 e3 e4 e5 e6 m v, s.ENV.call = (true, e1) → e1.call = (true, e2) → e2.read = (some m, e3) →
      e3.call = (true, e4) → e4.read = (some v, e5) → e5.call = (false, e6) →
      failsWith e6 (.writeParam .bpw req.BPW)) ∧
    (∀ e1 e2 e3 e4 e5 e6 e7 m v, s.ENV.call = (true, e1) → e1.call = (true, e2) → e2.read = (some m, e3) →
      e3.call = (true, e4) → e4.read = (some v, e5) → e5.call = (true, e6) → e6.read = (none, e7) →
      failsWith e7 (.readParam .bpw))

/-- Which buffers of an exchange are present, by the three predicates of the effective mode (R126). That transmit is the
active direction where both widths are multiple is the spec's own decision (D16); the bit positions are PRESUMED
(log 4). -/
def Obligations.PresentBuffersFollowTheEffectiveMode : Prop :=
  ∀ (s : State) (tx : List Byte),
    (s.loopback = true → s.present tx = (some tx, true)) ∧
    (s.loopback = false → s.txMulti = true → s.rxMulti = false → s.present tx = (some tx, false)) ∧
    (s.loopback = false → s.txMulti = true → s.rxMulti = true → s.present tx = (some tx, false)) ∧
    (s.loopback = false → s.txMulti = false → s.rxMulti = true → s.present tx = (none, true)) ∧
    (s.loopback = false → s.txMulti = false → s.rxMulti = false → s.present tx = (some tx, true)) ∧
    (s.loopback = modeLOOP s.LINK.EFF.MODE) ∧
    (s.txMulti = true ↔
      modeTX_DUAL s.LINK.EFF.MODE = true ∨ modeTX_QUAD s.LINK.EFF.MODE = true ∨ modeTX_OCTAL s.LINK.EFF.MODE = true) ∧
    (s.rxMulti = true ↔
      modeRX_DUAL s.LINK.EFF.MODE = true ∨ modeRX_QUAD s.LINK.EFF.MODE = true ∨ modeRX_OCTAL s.LINK.EFF.MODE = true)

/-- `XCHG` whose transfer succeeds, with the received bytes equal to the sent ones where loopback is effective
(R125): both counters advance by L, the exchange is recorded at the pattern on the lines, the buffers are released,
and the received bytes are returned, as far as the buffers are present. -/
def Obligations.ExchangeMovesAndCounts : Prop :=
  ∀ (s : State) (tx rx : List Byte) (e : Environment),
    s.live → s.LINK.OPENED = true → s.ENV.moves tx.length rx e → (s.loopback = true → rx = tx) →
    let got := if (s.present tx).2 then some rx else none
    exec (.xchg tx) s =
      .next { s with
        TXBUF := none, RXBUF := none, SENT := s.SENT + tx.length, RCVD := s.RCVD + tx.length,
        TRACE := s.TRACE ++ [.xfr s.A (s.present tx).1 got], ENV := e, RET := .bytes got }

/-- A failed transfer (R125, 60_exceptions.md R218) ends any operation of one exchange in the I/O error of its kind:
nothing is counted, recorded, received or otherwise changed, but for a broken duty noted in `HAZ`. That the frames
`CMD8` and `FETCH32` run as `XCMD` and `XFETCH` is the model's choice (log 14). -/
def Obligations.FailedTransferIsAnError : Prop :=
  ∀ (s : State) (i : Instr) (tx : List Byte) (a : TransferAnswer) (e : Environment),
    s.live → frameOf s.CFG i = some tx → s.LINK.OPENED = true → s.admitted = true ∨ i = .xchg tx →
    s.ENV.transfer = (a, e) → a ≠ .done →
    ∃ haz, (s.HAZ = true → haz = true) ∧
      (s.CFG.wf = true ∨ i = .xchg tx → (haz = true ↔ s.HAZ = true ∨ ¬ s.keepsDuty i)) ∧
      exec i s =
        .next (({ s with HAZ := haz, TXBUF := none, RXBUF := none, ENV := e } : State).takeError .ioError
          (transferError a tx.length))

/-- A loopback exchange whose received bytes differ (R125, R128, 60_exceptions.md R219) has taken place: it is counted
and recorded, a broken duty is noted, and the operation ends in the integrity error that lists the differences, unless
the sequencer issued it under `INTEGRITY_CONTINUE`. That the switch does not act for a harness is the model's reading
(DEDUCED, log 12); that the frames run as `XCMD` and `XFETCH` is its choice (log 14). -/
def Obligations.LoopbackMismatchIsAnIntegrityError : Prop :=
  ∀ (s : State) (i : Instr) (tx rx : List Byte) (e : Environment),
    s.live → frameOf s.CFG i = some tx → s.LINK.OPENED = true → s.loopback = true →
    s.ENV.moves tx.length rx e → rx ≠ tx → s.REQS ≠ [] ∨ s.CFG.INTEGRITY_CONTINUE = false →
    ∃ haz, (s.HAZ = true → haz = true) ∧
      (s.CFG.wf = true ∨ i = .xchg tx → (haz = true ↔ s.HAZ = true ∨ ¬ s.keepsDuty i)) ∧
      exec i s =
        .next (({ s with
          HAZ := haz, TXBUF := none, RXBUF := none, SENT := s.SENT + tx.length, RCVD := s.RCVD + tx.length,
          TRACE := s.TRACE ++ [.xfr s.A (some tx) (some rx)], ENV := e } : State).takeError .integrityError
          (.loopbackMismatch (diffsFrom 0 tx rx)))

/-- The one continuation (60_exceptions.md R227): under the sequencer with `INTEGRITY_CONTINUE`, the mismatch of any
operation of one exchange is reported in `OUT`, no fault is recorded, and the operation completes with the bytes
actually received: a fetch takes them as its sample, and a third programming write configures its channel. That the
frames `CMD8` and `FETCH32` run as `XCMD` and `XFETCH` is the model's choice (log 14). -/
def Obligations.IntegrityErrorContinues : Prop :=
  ∀ (s : State) (i : Instr) (tx rx : List Byte) (e : Environment) (haz : Bool) (enc : Six EncState),
    s.live → frameOf s.CFG i = some tx → s.CFG.wf = true ∨ i = .xchg tx → s.LINK.OPENED = true → s.loopback = true →
    s.REQS = [] → s.CFG.INTEGRITY_CONTINUE = true → s.ENV.moves tx.length rx e → rx ≠ tx →
    (haz = true ↔ s.HAZ = true ∨ ¬ s.keepsDuty i) →
    (∀ c, enc.get c = .configured ↔ s.ENC.get c = .configured ∨
      (i.command = some .setSec ∧ s.A = s.CFG.pattern c ∧
        (sentAt s.A s.TRACE).reverse.take 2 = [some [s.CFG.CMD_SET_QUAD], some [s.CFG.CMD_SEL_CTRL]])) →
    exec i s =
      .next { s with
        TXBUF := none, RXBUF := none, CNT := if i.fetches then some (be32 rx) else s.CNT, ENC := enc, HAZ := haz,
        SENT := s.SENT + tx.length, RCVD := s.RCVD + tx.length,
        TRACE := s.TRACE ++ [.xfr s.A (some tx) (some rx)],
        OUT := s.OUT ++ [.integrity (.loopbackMismatch (diffsFrom 0 tx rx))], ENV := e,
        RET :=
          if i.fetches then .count (be32 rx) else if i.command = none then .bytes (some rx) else .ok }

/-- The differences listed are exactly the positions at which the two sequences differ, ascending (R128). -/
def Obligations.DifferencesAreExact : Prop :=
  ∀ tx rx : List Byte,
    (∀ d, d ∈ diffsFrom 0 tx rx ↔
      tx[d.index]? = some d.sent ∧ rx[d.index]? = some d.received ∧ d.sent ≠ d.received) ∧
    ((diffsFrom 0 tx rx).map (·.index)).Pairwise (· < ·)

/-- `VLOOP` compares the buffers of the latest exchange (R128): it passes with loopback off or with equal bytes, and
otherwise ends in the integrity error, changing nothing. That `INTEGRITY_CONTINUE` does not act for a harness is the
model's reading (DEDUCED, log 12), and that two absent buffers pass its choice (log 13). -/
def Obligations.VloopComparesTheLatestExchange : Prop :=
  ∀ (s : State) (before after : List BusEvent) (a : Pattern) (sent got : Option (List Byte)),
    s.live → s.TRACE = before ++ .xfr a sent got :: after → (∀ a' tx' rx', .xfr a' tx' rx' ∉ after) →
    (s.loopback = false → exec .vloop s = .next { s with RET := .ok }) ∧
    (sent = got → exec .vloop s = .next { s with RET := .ok }) ∧
    ∀ tx rx, sent = some tx → got = some rx → tx.length = rx.length → s.loopback = true → tx ≠ rx →
      s.REQS ≠ [] ∨ s.CFG.INTEGRITY_CONTINUE = false →
      exec .vloop s = .next (s.takeError .integrityError (.loopbackMismatch (diffsFrom 0 tx rx)))

/-! Channel selection (41_channel_select.md). -/

/-- `GINIT` (R140): success makes the lines outputs and drives no level; failure is an I/O error and changes nothing. -/
def Obligations.GinitMakesTheLinesOutputs : Prop :=
  decode [0xE0] = .ok (.ginit, []) ∧
  ∀ (s : State) (e : Environment), s.live →
    (s.ENV.call = (true, e) →
      exec .ginit s = .next { s with GPIO_DIR := .outputs, TRACE := s.TRACE ++ [.gin], ENV := e, RET := .ok }) ∧
    (s.ENV.call = (false, e) →
      exec .ginit s = .next (({ s with ENV := e } : State).takeError .ioError .gpioInit))

/-- `SEL c` (R142): the literal ids 0..15 have words; an invalid id is an error; a valid one is refused while the lines
are not outputs, and otherwise drives the table's entry and notes in `HAZ` only whether another channel was still
selected. -/
def Obligations.SelectDrivesTheTableEntry : Prop :=
  (∀ n : Nat, n ≤ 15 → decode [BitVec.ofNat 8 (0x30 + n)] = .ok (.sel n, [])) ∧
  ∀ (s : State) (c : Int), s.live →
    (¬ validId c → exec (.sel c) s = .next (s.takeError .configurationError (.invalidChannel c))) ∧
    (validId c → s.GPIO_DIR = .unconfigured → exec (.sel c) s = .refused .linesNotOutputs) ∧
    ∀ (ch : Chan) (haz : Bool), c = ch.id → s.GPIO_DIR = .outputs → (haz = true ↔ s.HAZ = true ∨ s.holdsOther ch) →
      exec (.sel c) s =
        .next { s with
          A := s.CFG.SEL_TABLE.get ch, HAZ := haz, TRACE := s.TRACE ++ [.drv (s.CFG.SEL_TABLE.get ch)], RET := .ok }

/-- An id outside 1..6 is a configuration error (R143): no line is driven, nothing is recorded, `HAZ` is not touched,
and neither the link nor the lines need be ready. `SEL`, `PROGRAM` and `READ` check it first. -/
def Obligations.InvalidChannelIsAConfigurationError : Prop :=
  ∀ (s : State) (c : Int), s.live → ¬ validId c →
    exec (.sel c) s = .next (s.takeError .configurationError (.invalidChannel c)) ∧
    exec (.program c) s = .next (s.takeError .configurationError (.invalidChannel c)) ∧
    exec (.readCount c) s = .next (s.takeError .configurationError (.invalidChannel c))

/-- `SELC` is exactly `SEL CH`, and is refused with `CH = 0` (R145); where the sequencer stands before it, `CH` is a
channel. -/
def Obligations.SelcIsSelectOfTheServedChannel : Prop :=
  decode [0x40] = .ok (.selc, []) ∧
  ∀ s : State,
    (s.live → s.CH ≠ 0 → exec .selc s = exec (.sel s.CH) s) ∧
    (s.live → s.CH = 0 → exec .selc s = .refused .noChannelServed) ∧
    (SequencerInv s → romWord s.CFG.N s.PHASE s.CH s.STEP = some 0x40 → validId s.CH) ∧
    ∀ (c : Chan) (haz : Bool), s.live → (s.CH : Int) = c.id → s.GPIO_DIR = .outputs →
      (haz = true ↔ s.HAZ = true ∨ s.holdsOther c) →
      exec .selc s =
        .next { s with
          A := s.CFG.SEL_TABLE.get c, HAZ := haz, TRACE := s.TRACE ++ [.drv (s.CFG.SEL_TABLE.get c)], RET := .ok }

/-- `DESEL` (R144) drives the idle pattern, whatever the lines held, and is refused while they are not outputs. -/
def Obligations.DeselectDrivesTheIdlePattern : Prop :=
  decode [0x20] = .ok (.desel, []) ∧
  ∀ s : State, s.live →
    (s.GPIO_DIR = .unconfigured → exec .desel s = .refused .linesNotOutputs) ∧
    (s.GPIO_DIR = .outputs →
      exec .desel s =
        .next { s with A := s.CFG.IDLE_PATTERN, TRACE := s.TRACE ++ [.drv s.CFG.IDLE_PATTERN], RET := .ok })

/-- The address word (30_encoding.md R91, R105 (b)): a channel's pattern selects that channel, the idle pattern
deselects, and the eighth pattern is refused. -/
def Obligations.AddressWordSelectsByPattern : Prop :=
  ∀ (s : State) (haz : Bool), s.live → s.GPIO_DIR = .outputs → s.CFG.wf = true →
    (∀ c, (haz = true ↔ s.HAZ = true ∨ s.holdsOther c) →
      exec (.addr3 (s.CFG.SEL_TABLE.get c)) s =
        .next { s with
          A := s.CFG.SEL_TABLE.get c, HAZ := haz, TRACE := s.TRACE ++ [.drv (s.CFG.SEL_TABLE.get c)], RET := .ok }) ∧
    exec (.addr3 s.CFG.IDLE_PATTERN) s =
      .next { s with A := s.CFG.IDLE_PATTERN, TRACE := s.TRACE ++ [.drv s.CFG.IDLE_PATTERN], RET := .ok } ∧
    ∀ p, p ≠ s.CFG.IDLE_PATTERN → (∀ c, p ≠ s.CFG.SEL_TABLE.get c) → exec (.addr3 p) s = .refused .unusedPattern

/-- Exactly the selected channel is selected after `SEL`, none is after `DESEL`, the lines never hold the eighth
pattern, and what they hold depends on the operation alone, not on what they held (R147). -/
def Obligations.SelectionIsExclusive : Prop :=
  ∀ (s t : State) (c d : Chan), s.CFG.wf = true →
    (exec (.sel c.id) s = .next t → (t.A = t.CFG.SEL_TABLE.get d ↔ d = c)) ∧
    (exec .desel s = .next t → t.A ≠ t.CFG.SEL_TABLE.get d) ∧
    (exec (.sel c.id) s = .next t ∨ exec .desel s = .next t → usedPattern s.CFG t.A) ∧
    ∀ s' t' : State, s'.CFG = s.CFG →
      (exec (.sel c.id) s = .next t ∧ exec (.sel c.id) s' = .next t') ∨
        (exec .desel s = .next t ∧ exec .desel s' = .next t') → t'.A = t.A

/-! Encoder commands (42_encoder_commands.md). -/

/-- `XCMD k`, and the frame `CMD8` of the same command, on an open, admitted link whose transfer succeeds (R155, R157,
R158): one byte out, the answer ignored, the duties noted in `HAZ`, and the channel configured exactly when its three
latest exchanges are the programming sequence. -/
def Obligations.CommandSendsOneByte : Prop :=
  ∀ (s : State) (k : Cmd) (i : Instr) (rx : List Byte) (e : Environment) (haz : Bool) (enc : Six EncState),
    i = .xcmd k ∨ i = k.frame →
    s.live → s.CFG.wf = true → s.LINK.OPENED = true → s.admitted = true →
    s.ENV.moves 1 rx e → (s.loopback = true → rx = [s.CFG.cmdByte k]) →
    (haz = true ↔ s.HAZ = true ∨ ¬ s.commandDuty k) →
    (∀ c, enc.get c = .configured ↔ s.ENC.get c = .configured ∨
      (k = .setSec ∧ s.A = s.CFG.pattern c ∧
        (sentAt s.A s.TRACE).reverse.take 2 = [some [s.CFG.CMD_SET_QUAD], some [s.CFG.CMD_SEL_CTRL]])) →
    exec i s =
      .next { s with
        TXBUF := none, RXBUF := none, ENC := enc, HAZ := haz, SENT := s.SENT + 1, RCVD := s.RCVD + 1,
        TRACE := s.TRACE ++ [.xfr s.A (some [s.CFG.cmdByte k]) (some rx)], ENV := e, RET := .ok }

/-- `XFETCH`, and the frame `FETCH32`, on an open, admitted link whose transfer succeeds (R163, R164): four fill bytes
out, the four received bytes are the sample, and the duties are noted in `HAZ`. -/
def Obligations.FetchAssemblesTheCounter : Prop :=
  ∀ (s : State) (i : Instr) (b0 b1 b2 b3 : Byte) (e : Environment) (haz : Bool),
    i = .xfetch ∨ i = .fetch32 →
    s.live → s.LINK.OPENED = true → s.admitted = true →
    s.ENV.moves 4 [b0, b1, b2, b3] e → (s.loopback = true → [b0, b1, b2, b3] = s.CFG.fetchFrame) →
    (haz = true ↔ s.HAZ = true ∨ ¬ s.fetchDuty) →
    exec i s =
      .next { s with
        TXBUF := none, RXBUF := none, CNT := some (b0 ++ b1 ++ b2 ++ b3), HAZ := haz,
        SENT := s.SENT + 4, RCVD := s.RCVD + 4,
        TRACE := s.TRACE ++ [.xfr s.A (some s.CFG.fetchFrame) (some [b0, b1, b2, b3])],
        ENV := e, RET := .count (b0 ++ b1 ++ b2 ++ b3) }

/-- The response frame (30_encoding.md R93): the fetch in which the chip answers these four bytes, whatever comes of it;
`rx[0]` is `CNT[31:24]`. It uses up no prepared answer (the model's choice, log 14). -/
def Obligations.ResponseFrameIsTheCounter : Prop :=
  ∀ (s : State) (b0 b1 b2 b3 : Byte) (haz : Bool),
    exec (.rsp32 b0 b1 b2 b3) s = exec .xfetch { s with ENV := s.ENV.answering [b0, b1, b2, b3] } ∧
    (s.ENV.answering [b0, b1, b2, b3]).moves 4 [b0, b1, b2, b3] s.ENV ∧
    (s.live → s.LINK.OPENED = true → s.admitted = true →
      (s.loopback = true → [b0, b1, b2, b3] = s.CFG.fetchFrame) → (haz = true ↔ s.HAZ = true ∨ ¬ s.fetchDuty) →
      exec (.rsp32 b0 b1 b2 b3) s =
        .next { s with
          TXBUF := none, RXBUF := none, CNT := some (b0 ++ b1 ++ b2 ++ b3), HAZ := haz,
          SENT := s.SENT + 4, RCVD := s.RCVD + 4,
          TRACE := s.TRACE ++ [.xfr s.A (some s.CFG.fetchFrame) (some [b0, b1, b2, b3])],
          RET := .count (b0 ++ b1 ++ b2 ++ b3) })

/-- The counter is assembled big-endian, unsigned and without any other change (R164, 20_memory.md R62). -/
def Obligations.CounterIsBigEndianUnsigned : Prop :=
  ∀ (s : State) (b0 b1 b2 b3 : Byte) (e : Environment),
    s.live → s.LINK.OPENED = true → s.admitted = true → s.ENV.moves 4 [b0, b1, b2, b3] e → s.loopback = false →
    ∃ t n, exec .xfetch s = .next t ∧ t.CNT = some n ∧
      n.toNat = b0.toNat * 2 ^ 24 + b1.toNat * 2 ^ 16 + b2.toNat * 2 ^ 8 + b3.toNat ∧ n.toNat < 2 ^ 32

/-- `PROGRAM c` on an open, admitted link and output lines when its three transfers succeed (R156, R158): three
one-byte writes, each in its own bracket, the channel configured, the lines idle. -/
def Obligations.ProgramWritesThreeRegisters : Prop :=
  ∀ (s : State) (c : Chan) (r1 r2 r3 : List Byte) (e1 e2 e3 : Environment) (haz : Bool),
    s.live → s.CFG.wf = true → s.GPIO_DIR = .outputs → s.LINK.OPENED = true → s.admitted = true →
    s.ENV.moves 1 r1 e1 → e1.moves 1 r2 e2 → e2.moves 1 r3 e3 →
    (s.loopback = true → r1 = [s.CFG.CMD_SEL_CTRL] ∧ r2 = [s.CFG.CMD_SET_QUAD] ∧ r3 = [s.CFG.CMD_SET_SEC]) →
    (haz = true ↔ s.HAZ = true ∨ s.holdsOther c) →
    let p := s.CFG.SEL_TABLE.get c
    let idle := s.CFG.IDLE_PATTERN
    exec (.program c.id) s =
      .next { s with
        A := idle, TXBUF := none, RXBUF := none, ENC := s.ENC.set c .configured, HAZ := haz,
        SENT := s.SENT + 3, RCVD := s.RCVD + 3,
        TRACE := s.TRACE ++
          [.drv p, .xfr p (some [s.CFG.CMD_SEL_CTRL]) (some r1), .drv idle,
           .drv p, .xfr p (some [s.CFG.CMD_SET_QUAD]) (some r2), .drv idle,
           .drv p, .xfr p (some [s.CFG.CMD_SET_SEC]) (some r3), .drv idle],
        ENV := e3, RET := .ok }

/-- Each pseudo-operation is its expansion, ended at the first error (R156, R160, 30_encoding.md R108); issued as such
it is one operation (the model's choice, log 15). So `PROGRAM c` ends at whichever of its transfers fails, with the chip
left selected and nothing more driven or sent (60_exceptions.md R225), `READ c` at whichever of its two, and an invalid
id ends `PROGCH` after its first drive and `POLLCH` before anything. -/
def Obligations.PseudoOperationsEndAtTheFirstError : Prop :=
  (∀ (s : State) (c : Int),
    exec (.program c) s =
      inSequence [.sel c, .xcmd .selCtrl, .desel, .sel c, .xcmd .setQuad, .desel, .sel c, .xcmd .setSec, .desel] s ∧
    exec (.progch c) s = inSequence [.desel, .sel c, .program c, .desel] s ∧
    exec (.pollch c) s = inSequence [.sel c, .readCount c, .convAngle c.toNat, .desel] s ∧
    (∀ (ch : Chan) (haz : Bool), c = ch.id → (haz = true ↔ s.HAZ = true ∨ s.A ≠ s.CFG.SEL_TABLE.get ch) →
      exec (.readCount c) s = inSequence [.xcmd .readPos, .xfetch] { s with HAZ := haz }) ∧
    (s.live → ¬ validId c → s.GPIO_DIR = .outputs →
      exec (.progch c) s =
        .next (({ s with A := s.CFG.IDLE_PATTERN, TRACE := s.TRACE ++ [.drv s.CFG.IDLE_PATTERN] } : State).takeError
          .configurationError (.invalidChannel c))) ∧
    (s.live → ¬ validId c → exec (.pollch c) s = .next (s.takeError .configurationError (.invalidChannel c)))) ∧
  (∀ (s : State) (c : Chan) (a : TransferAnswer) (r1 r2 : List Byte) (e1 e2 e : Environment) (haz : Bool),
    s.live → s.CFG.wf = true → s.GPIO_DIR = .outputs → s.LINK.OPENED = true → s.admitted = true → a ≠ .done →
    (s.loopback = true → r1 = [s.CFG.CMD_SEL_CTRL] ∧ r2 = [s.CFG.CMD_SET_QUAD]) →
    (haz = true ↔ s.HAZ = true ∨ s.holdsOther c) →
    let p := s.CFG.SEL_TABLE.get c
    let idle := s.CFG.IDLE_PATTERN
    let first : List BusEvent := [.drv p, .xfr p (some [s.CFG.CMD_SEL_CTRL]) (some r1), .drv idle]
    let second : List BusEvent := [.drv p, .xfr p (some [s.CFG.CMD_SET_QUAD]) (some r2), .drv idle]
    let abandoned := fun (n : Nat) (events : List BusEvent) =>
      Host.Outcome.next (({ s with
        A := p, TXBUF := none, RXBUF := none, HAZ := haz, SENT := s.SENT + n, RCVD := s.RCVD + n,
        TRACE := s.TRACE ++ events ++ [.drv p], ENV := e } : State).takeError .ioError (transferError a 1))
    (s.ENV.transfer = (a, e) → exec (.program c.id) s = abandoned 0 []) ∧
    (s.ENV.moves 1 r1 e1 → e1.transfer = (a, e) → exec (.program c.id) s = abandoned 1 first) ∧
    (s.ENV.moves 1 r1 e1 → e1.moves 1 r2 e2 → e2.transfer = (a, e) →
      exec (.program c.id) s = abandoned 2 (first ++ second))) ∧
  ∀ (s : State) (c : Chan) (a : TransferAnswer) (r1 : List Byte) (e1 e : Environment) (haz : Bool),
    s.live → s.CFG.wf = true → s.LINK.OPENED = true → s.admitted = true → a ≠ .done →
    (s.loopback = true → r1 = [s.CFG.CMD_READ_POS]) →
    (haz = true ↔ s.HAZ = true ∨ s.A ≠ s.CFG.SEL_TABLE.get c ∨ s.ENC.get c = .uninitialized) →
    (s.ENV.transfer = (a, e) →
      exec (.readCount c.id) s =
        .next (({ s with HAZ := haz, TXBUF := none, RXBUF := none, ENV := e } : State).takeError .ioError
          (transferError a 1))) ∧
    (s.ENV.moves 1 r1 e1 → e1.transfer = (a, e) →
      exec (.readCount c.id) s =
        .next (({ s with
          HAZ := haz, TXBUF := none, RXBUF := none, SENT := s.SENT + 1, RCVD := s.RCVD + 1,
          TRACE := s.TRACE ++ [.xfr s.A (some [s.CFG.CMD_READ_POS]) (some r1)], ENV := e } : State).takeError .ioError
          (transferError a 4)))

/-- `READ c` on an open, admitted link when both transfers succeed (R160, R161, R162): the command, its answer
ignored, then the fetch, in the caller's bracket; the id serves only the checks. -/
def Obligations.ReadFetchesThePosition : Prop :=
  ∀ (s : State) (c : Chan) (r1 : List Byte) (b0 b1 b2 b3 : Byte) (e1 e2 : Environment) (haz : Bool),
    s.live → s.CFG.wf = true → s.LINK.OPENED = true → s.admitted = true →
    s.ENV.moves 1 r1 e1 → e1.moves 4 [b0, b1, b2, b3] e2 →
    (s.loopback = true → r1 = [s.CFG.CMD_READ_POS] ∧ [b0, b1, b2, b3] = s.CFG.fetchFrame) →
    (haz = true ↔ s.HAZ = true ∨ s.A ≠ s.CFG.SEL_TABLE.get c ∨ s.ENC.get c = .uninitialized) →
    exec (.readCount c.id) s =
      .next { s with
        TXBUF := none, RXBUF := none, CNT := some (b0 ++ b1 ++ b2 ++ b3), HAZ := haz,
        SENT := s.SENT + 5, RCVD := s.RCVD + 5,
        TRACE := s.TRACE ++
          [.xfr s.A (some [s.CFG.CMD_READ_POS]) (some r1),
           .xfr s.A (some s.CFG.fetchFrame) (some [b0, b1, b2, b3])],
        ENV := e2, RET := .count (b0 ++ b1 ++ b2 ++ b3) }

/-- `CONV s` (R166): the slot `CH` for selector 0, else the literal slot, 1..6 or refused; without a sample refused;
otherwise the sample is converted by `ANGLE_FN`, stored and consumed. That a slot above N is written is the model's
reading (DEDUCED, log 32). -/
def Obligations.ConvStoresTheAngle : Prop :=
  (∀ n : Nat, n ≤ 6 → decode [BitVec.ofNat 8 (0x70 + n)] = .ok (.convAngle n, [])) ∧
  ∀ (s : State) (sel : Nat), s.live →
    let slot : Int := if sel = 0 then s.CH else sel
    (slot = 0 → exec (.convAngle sel) s = .refused .noChannelServed) ∧
    (slot > 6 → exec (.convAngle sel) s = .refused .slotOutOfRange) ∧
    (validId slot → s.CNT = none → exec (.convAngle sel) s = .refused .nothingToConvert) ∧
    ∀ (c : Chan) (n : Count32), slot = c.id → s.CNT = some n →
      exec (.convAngle sel) s =
        .next { s with CNT := none, RES := s.RES.set c (some (angleOf s.CFG n)), RET := .ok }

/-- The angle functions and their laws (R166, R167): 0 at 0, the product at 8000, monotone. The binary64 product
(PRESUMED to be IEEE 754, log 8) is never negative nor a NaN, so that the order of its bits is the order of its values;
its constant and its values for the scale 9/200 are those of 10_state.md R31 and R167, R168. The exact product is the
counter times the scale in lowest terms, and of the uninterpreted function nothing is known but the laws; under an
irrational scale their values are 0 and rational multiples of the scale (log 7). -/
def Obligations.AngleFunctionsKeepTheirLaws : Prop :=
  ∀ cfg : Cfg,
    (cfg.ANGLE_FN = .binary64 → ∃ f : Count32 → BitVec 64,
      (∀ n, angleOf cfg n = .f64 (f n)) ∧ f 0 = 0 ∧
      (∀ m n : Count32, m.toNat ≤ n.toNat → (f m).toNat ≤ (f n).toNat) ∧
      (∀ n, (f n).toNat ≤ 0x7FF0000000000000) ∧
      (cfg.SCALE = .rational { num := 9, den := 200 } →
        cfg.SCALE.toF64 = 0x3FA70A3D70A3D70A ∧ f 8000 = 0x4076800000000000 ∧ f 5 = 0x3FCCCCCCCCCCCCCC ∧
          f 4294967295 = 0x41A70A3D708CCCCD)) ∧
    (cfg.ANGLE_FN ≠ .binary64 → ∃ f : Count32 → Ratio,
      (∀ n, 0 < (f n).den ∧ Nat.Coprime (f n).num.natAbs (f n).den) ∧ f 0 = ⟨0, 1⟩ ∧
      (∀ m n : Count32, m.toNat ≤ n.toNat → (f m).num * (f n).den ≤ (f n).num * (f m).den) ∧
      (∀ q, cfg.SCALE = .rational q →
        (∀ n, angleOf cfg n = .rational (f n)) ∧
        (f 8000).num * q.den = 8000 * q.num * (f 8000).den ∧
        (cfg.ANGLE_FN = .exactProduct → ∀ n : Count32, (f n).num * q.den = n.toNat * q.num * (f n).den)) ∧
      ∀ e which, cfg.SCALE = .irrational e which →
        (∀ n, angleOf cfg n = if (f n).num = 0 then .rational ⟨0, 1⟩ else .multiple (f n) e which) ∧
        f 8000 = ⟨8000, 1⟩ ∧ (cfg.ANGLE_FN = .exactProduct → ∀ n : Count32, f n = ⟨n.toNat, 1⟩))

/-! Polling (43_polling_loop.md) and the rate monitor (44_rate_monitor.md). -/

/-- `ARM` loads the cycle counter, an absent count meaning 1, and takes the first time stamp (R182); the snapshots stay. -/
def Obligations.ArmLoadsTheCycleCount : Prop :=
  decode [0xA0] = .ok (.arm, []) ∧
  ∀ (s : State) (now : Int) (e : Environment), s.live → s.ENV.now = (now, e) →
    exec .arm s = .next { s with CYC := some (s.CFG.K.getD 1), LAST_T := some now, ENV := e, RET := .ok }

/-- `EMIT` with every slot of `1..N` set emits the angles in channel order, and is refused with one unset (R188). What
it emits under an `N` outside 1..6 is the model's choice (log 33). -/
def Obligations.EmitReportsAllAngles : Prop :=
  decode [0x80] = .ok (.emit, []) ∧
  (∀ s : State, s.live → (∃ c ∈ Chan.all.take s.CFG.N, s.RES.get c = none) → exec .emit s = .refused .resultUnset) ∧
  ∀ (s : State) (angles : List Angle), s.live →
    (Chan.all.take s.CFG.N).map s.RES.get = angles.map some →
    exec .emit s = .next { s with OUT := s.OUT ++ [.result angles], RET := .ok }

/-- `DEC` (R189) counts down by one, and is refused with no cycle left; in a run there is one, and after the count the
machine goes on with channel 1 or is done. -/
def Obligations.DecCountsDown : Prop :=
  decode [0xB0] = .ok (.dec, []) ∧
  ∀ s : State,
    (s.live → s.CYC = none ∨ s.CYC = some 0 → exec .dec s = .refused .noCycleLeft) ∧
    (∀ n, s.live → s.CYC = some (n + 1) → exec .dec s = .next { s with CYC := some n, RET := .ok }) ∧
    (SequencerInv s → romWord s.CFG.N s.PHASE s.CH s.STEP = some 0xB0 →
      ∃ n t, s.CYC = some (n + 1) ∧ step s = .next t ∧ t.CYC = some n ∧
        (t.PHASE, t.CH, t.STEP) = if n = 0 then (.done, 0, 0) else (.polling, 1, 0))

/-- `RATE` (R202): a report exactly when more than the interval has passed since the last one, a strict comparison on
integers; the report sets the time stamp and the snapshots, and otherwise only the clock is read. Without a time stamp
it is refused. -/
def Obligations.RateReportsAfterTheInterval : Prop :=
  decode [0x90] = .ok (.rate, []) ∧
  (∀ s : State, s.live → s.LAST_T = none → exec .rate s = .refused .noTimeStamp) ∧
  ∀ (s : State) (last now : Int) (e : Environment), s.live → s.LAST_T = some last → s.ENV.now = (now, e) →
    (now - last > s.CFG.INTERVAL_MS →
      let tx := rateKbps s.SENT s.SNAP_SENT s.CFG.INTERVAL_MS
      let rx := rateKbps s.RCVD s.SNAP_RCVD s.CFG.INTERVAL_MS
      exec .rate s =
        .next { s with
          OUT := s.OUT ++ [.report tx rx], LAST_T := some now, SNAP_SENT := s.SENT, SNAP_RCVD := s.RCVD, ENV := e,
          RET := .report (some (tx, rx)) }) ∧
    (¬ now - last > s.CFG.INTERVAL_MS → exec .rate s = .next { s with ENV := e, RET := .report none })

/-- A rate is the exact quotient of the bits by the interval, in lowest terms, and 0 for no bytes (R202, R203, R204). -/
def Obligations.RateIsTheExactQuotient : Prop :=
  ∀ (now before : Nat) (interval : Int), 0 < interval →
    let r := rateKbps now before interval
    0 < r.den ∧ r.num * interval = ((now : Int) - before) * 8 * r.den ∧ Nat.Coprime r.num.natAbs r.den ∧
      (now = before → r = ⟨0, 1⟩)

/-- `PROGCH c` (30_encoding.md R108): `DESEL; SEL c; PROGRAM c; DESEL`, as one operation (the model's choice, log 15);
with the lines first driven idle, no duty can be broken. -/
def Obligations.ProgchProgramsOneChannel : Prop :=
  ∀ (s : State) (c : Chan) (r1 r2 r3 : List Byte) (e1 e2 e3 : Environment),
    s.live → s.CFG.wf = true → s.GPIO_DIR = .outputs → s.LINK.OPENED = true → s.admitted = true →
    s.ENV.moves 1 r1 e1 → e1.moves 1 r2 e2 → e2.moves 1 r3 e3 →
    (s.loopback = true → r1 = [s.CFG.CMD_SEL_CTRL] ∧ r2 = [s.CFG.CMD_SET_QUAD] ∧ r3 = [s.CFG.CMD_SET_SEC]) →
    let p := s.CFG.SEL_TABLE.get c
    let idle := s.CFG.IDLE_PATTERN
    exec (.progch c.id) s =
      .next { s with
        A := idle, TXBUF := none, RXBUF := none, ENC := s.ENC.set c .configured,
        SENT := s.SENT + 3, RCVD := s.RCVD + 3,
        TRACE := s.TRACE ++
          [.drv idle, .drv p, .drv p, .xfr p (some [s.CFG.CMD_SEL_CTRL]) (some r1), .drv idle,
           .drv p, .xfr p (some [s.CFG.CMD_SET_QUAD]) (some r2), .drv idle,
           .drv p, .xfr p (some [s.CFG.CMD_SET_SEC]) (some r3), .drv idle, .drv idle],
        ENV := e3, RET := .ok }

/-- `POLLCH c` (30_encoding.md R108): `SEL c; READ c; CONV c; DESEL`, as one operation (the model's choice, log 15); the
angle is stored while the channel is selected, in a slot above N too (DEDUCED, log 32), and the sample is consumed. -/
def Obligations.PollchReadsOneChannel : Prop :=
  ∀ (s : State) (c : Chan) (r1 : List Byte) (b0 b1 b2 b3 : Byte) (e1 e2 : Environment) (haz : Bool),
    s.live → s.CFG.wf = true → s.GPIO_DIR = .outputs → s.LINK.OPENED = true → s.admitted = true →
    s.ENV.moves 1 r1 e1 → e1.moves 4 [b0, b1, b2, b3] e2 →
    (s.loopback = true → r1 = [s.CFG.CMD_READ_POS] ∧ [b0, b1, b2, b3] = s.CFG.fetchFrame) →
    (haz = true ↔ s.HAZ = true ∨ s.holdsOther c ∨ s.ENC.get c = .uninitialized) →
    let p := s.CFG.SEL_TABLE.get c
    let idle := s.CFG.IDLE_PATTERN
    exec (.pollch c.id) s =
      .next { s with
        A := idle, TXBUF := none, RXBUF := none, CNT := none,
        RES := s.RES.set c (some (angleOf s.CFG (b0 ++ b1 ++ b2 ++ b3))), HAZ := haz,
        SENT := s.SENT + 5, RCVD := s.RCVD + 5,
        TRACE := s.TRACE ++
          [.drv p, .xfr p (some [s.CFG.CMD_READ_POS]) (some r1),
           .xfr p (some s.CFG.fetchFrame) (some [b0, b1, b2, b3]), .drv idle],
        ENV := e2, RET := .ok }

/-! Errors, refusals, reset (60_exceptions.md, 70_reset_and_hazards.md). -/

/-- Taking an error (60_exceptions.md R224, R225, R226, R228): under the sequencer the machine halts, with the fault
recorded, `FATAL` emitted and everything else, the position and the lines included, kept; a harness only sees the
value. -/
def Obligations.ErrorHaltsTheSequencerOnly : Prop :=
  ∀ (s : State) (kind : ErrKind) (info : ErrInfo),
    (s.REQS = [] →
      s.takeError kind info =
        { s with
          FAULT := some ⟨kind, kind.code, info⟩, OUT := s.OUT ++ [.fatal kind kind.code info], PHASE := .halted,
          EXIT := .exitedNonzero, RET := .error kind info }) ∧
    (s.REQS ≠ [] → s.takeError kind info = { s with RET := .error kind info })

/-- A sequencer step whose operation ends in an error halts the machine at the failing position, with the lines as
they stand (43_polling_loop.md R191, 60_exceptions.md R224, R225). `OUT` gains the `FATAL` event only, and nothing else
changes but what the failing operation did before it failed: a mismatching exchange is counted and recorded (R219), an
`OPEN` may leave other effective values (R121), and a broken duty may be noted. -/
def Obligations.SequencerErrorHaltsInPlace : Prop :=
  ∀ (s t : State) (kind : ErrKind) (info : ErrInfo),
    s.REQS = [] → step s = .next t → t.RET = .error kind info →
    (t.PHASE = .halted ∧ t.CH = s.CH ∧ t.STEP = s.STEP ∧ t.A = s.A ∧ t.FAULT = some ⟨kind, kind.code, info⟩ ∧
      t.EXIT = .exitedNonzero ∧ t.OUT = s.OUT ++ [.fatal kind kind.code info]) ∧
    (t.GPIO_DIR = s.GPIO_DIR ∧ t.CNT = s.CNT ∧ t.RES = s.RES ∧ t.ENC = s.ENC ∧ t.SNAP_SENT = s.SNAP_SENT ∧
      t.SNAP_RCVD = s.SNAP_RCVD ∧ t.LAST_T = s.LAST_T ∧ t.CYC = s.CYC ∧ t.CFG = s.CFG ∧ t.REQS = []) ∧
    (t.LINK = s.LINK ∨ s.LINK.OPENED = false ∧ kind = .ioError ∧ ∃ eff, t.LINK = { s.LINK with EFF := eff }) ∧
    (kind ≠ .integrityError → t.SENT = s.SENT ∧ t.RCVD = s.RCVD ∧ t.TRACE = s.TRACE) ∧
    (kind = .integrityError → ∃ tx rx : List Byte,
      info = .loopbackMismatch (diffsFrom 0 tx rx) ∧ t.SENT = s.SENT + tx.length ∧ t.RCVD = s.RCVD + tx.length ∧
        t.TRACE = s.TRACE ++ [.xfr s.A (some tx) (some rx)])

/-- A harness step writes neither the position, nor the fault record, nor the exit status (60_exceptions.md R228). -/
def Obligations.HarnessNeverHalts : Prop :=
  ∀ s t : State, s.REQS ≠ [] → step s = .next t →
    t.PHASE = s.PHASE ∧ t.CH = s.CH ∧ t.STEP = s.STEP ∧ t.FAULT = s.FAULT ∧ t.EXIT = s.EXIT

/-- The codes of the error kinds and of the warning, the sub-codes of their causes (60_exceptions.md R215), and the codes
of the phases (30_encoding.md R102). -/
def Obligations.CodesFollowTheTables : Prop :=
  (ErrKind.code .configurationError = 1 ∧ ErrKind.code .ioError = 2 ∧ ErrKind.code .integrityError = 3) ∧
  (∀ w : WarnRecord, w.code = 0 ∧ w.subCode = (0, 1)) ∧
  (∀ c, ErrInfo.subCode (.invalidChannel c) = (1, 1)) ∧ (∀ l, ErrInfo.subCode (.conflictingOptions l) = (1, 2)) ∧
  (∀ d, ErrInfo.subCode (.openDevice d) = (2, 1)) ∧ (∀ p v, ErrInfo.subCode (.writeParam p v) = (2, 2)) ∧
  (∀ p, ErrInfo.subCode (.readParam p) = (2, 3)) ∧ ErrInfo.subCode .gpioInit = (2, 4) ∧
  (∀ n, ErrInfo.subCode (.transferShort n) = (2, 5)) ∧ (∀ n, ErrInfo.subCode (.transferDevice n) = (2, 6)) ∧
  (∀ ds, ErrInfo.subCode (.loopbackMismatch ds) = (3, 1)) ∧
  [Phase.setup, .programming, .ready, .polling, .done, .halted].map Phase.code = [0, 1, 2, 3, 4, 5]

/-- An ill-formed configuration halts the machine as its first action, before any driver call (43_polling_loop.md R178,
60_exceptions.md R217). -/
def Obligations.IllFormedConfigurationHaltsFirst : Prop :=
  ∀ s : State, s.REQS = [] → s.PHASE = .setup → s.CH = 0 → s.STEP = 0 → s.CFG.wf = false →
    step s =
      .next { s with
        FAULT := some ⟨.configurationError, 1, .conflictingOptions s.CFG.failures⟩,
        OUT := s.OUT ++ [.fatal .configurationError 1 (.conflictingOptions s.CFG.failures)],
        PHASE := .halted, EXIT := .exitedNonzero,
        RET := .error .configurationError (.conflictingOptions s.CFG.failures) }

/-- The well-formed configurations (00_scope.md R8), which conditions an ill-formed one is reported to fail, and that a
run of one begins with its configuration error, before any bus or line activity. -/
def Obligations.WellFormedConfigurations : Prop :=
  ∀ cfg : Cfg,
    (cfg.wf = false → ∀ levels eff env, ∃ t, step (State.resetWith cfg levels eff env) = .next t ∧
      t.RET = .error .configurationError (.conflictingOptions cfg.failures) ∧ t.PHASE = .halted ∧ t.TRACE = [] ∧
      t.A = levels ∧ t.ENV = env) ∧
    (cfg.wf = true ↔
      (1 ≤ cfg.N ∧ cfg.N ≤ 6) ∧ 1 ≤ cfg.K.getD 1 ∧ 0 < cfg.INTERVAL_MS ∧
      (∀ c d, cfg.SEL_TABLE.get c = cfg.SEL_TABLE.get d → c = d) ∧ (∀ c, cfg.SEL_TABLE.get c ≠ cfg.IDLE_PATTERN) ∧
      (cfg.IDLE_PATTERN = 0b000 ∨ cfg.IDLE_PATTERN = 0b111)) ∧
    (.channelCount ∈ cfg.failures ↔ ¬ (1 ≤ cfg.N ∧ cfg.N ≤ 6)) ∧
    (.cycleCount ∈ cfg.failures ↔ ¬ 1 ≤ cfg.K.getD 1) ∧
    (.interval ∈ cfg.failures ↔ ¬ 0 < cfg.INTERVAL_MS) ∧
    (.tableInjective ∈ cfg.failures ↔ ∃ c d, c ≠ d ∧ cfg.SEL_TABLE.get c = cfg.SEL_TABLE.get d) ∧
    (.idleNotInTable ∈ cfg.failures ↔ ∃ c, cfg.SEL_TABLE.get c = cfg.IDLE_PATTERN) ∧
    (.idleBitsEqual ∈ cfg.failures ↔ ¬ (cfg.IDLE_PATTERN = 0b000 ∨ cfg.IDLE_PATTERN = 0b111))

/-- Operations complete exactly where the list of refusals leaves them a meaning: outside the terminal phases and with
their prerequisites (70_reset_and_hazards.md R262). Elsewhere they are refused, never stuck. The prerequisites of the
frames, of the pseudo-operations and of `EMIT` under an `N` outside 1..6 are the model's (logs 14, 15, 33). -/
def Obligations.OperationsCompleteUnlessRefused : Prop :=
  ∀ (i : Instr) (s : State),
    (s.live ∧ prerequisites i s → ∃ t, exec i s = .next t) ∧
    (¬ (s.live ∧ prerequisites i s) → ∃ r, exec i s = .refused r ∧ ∀ m, r ≠ .notModelled m)

/-- The reserved operation codes are refused in every state (30_encoding.md R105 (d), 70_reset_and_hazards.md
R262 (j)). -/
def Obligations.ReservedOperationsStop : Prop :=
  ∀ (arg : Nibble) (s : State),
    exec (.reservedOp0 arg) s = .refused .reservedEncoding ∧ exec (.reservedOpF arg) s = .refused .reservedEncoding

/-- What each operation leaves alone (10_state.md R21 to R48, the writers of each element). -/
def Obligations.OperationsLeaveTheRestAlone : Prop :=
  ∀ (i : Instr) (s t : State), exec i s = .next t →
    (t.CH = s.CH ∧ t.STEP = s.STEP ∧ t.CFG = s.CFG ∧ t.REQS = s.REQS) ∧
    (i.drives = false → t.A = s.A) ∧
    (i ≠ .ginit → t.GPIO_DIR = s.GPIO_DIR) ∧
    (i ≠ .openLink → t.LINK = s.LINK) ∧
    (i.exchanges = false → t.SENT = s.SENT ∧ t.RCVD = s.RCVD ∧ t.TXBUF = s.TXBUF ∧ t.RXBUF = s.RXBUF) ∧
    (i.writesCount = false → t.CNT = s.CNT) ∧
    (i.writesResult = false → t.RES = s.RES) ∧
    (i.programs = false → t.ENC = s.ENC) ∧
    (i.checksDuty = false → t.HAZ = s.HAZ) ∧
    (i ≠ .rate → t.SNAP_SENT = s.SNAP_SENT ∧ t.SNAP_RCVD = s.SNAP_RCVD) ∧
    (i ≠ .rate → i ≠ .arm → t.LAST_T = s.LAST_T) ∧
    (i ≠ .arm → i ≠ .dec → t.CYC = s.CYC) ∧
    (i.drives = false → i.exchanges = false → i ≠ .ginit → t.TRACE = s.TRACE) ∧
    (i.asks = false → t.ENV = s.ENV) ∧
    ((∀ k info, t.RET ≠ .error k info) ∨ s.REQS ≠ [] →
      t.PHASE = s.PHASE ∧ t.FAULT = s.FAULT ∧ t.EXIT = s.EXIT ∧
      (i ∉ [.openLink, .emit, .rate] → i.exchanges = false → i ≠ .vloop → t.OUT = s.OUT))

/-- What only grows in a step (10_state.md R33, R35, R36, R45, R46, R48): the histories are extended, the accumulator
does not fall, a configured channel stays configured, a broken duty stays noted, an open link stays open with its
effective values, and the configuration is constant. -/
def Obligations.HistoryOnlyGrows : Prop :=
  ∀ s t : State, step s = .next t →
    s.TRACE <+: t.TRACE ∧ s.OUT <+: t.OUT ∧ s.SENT ≤ t.SENT ∧ s.RCVD ≤ t.RCVD ∧
    (∀ c, s.ENC.get c = .configured → t.ENC.get c = .configured) ∧ (s.HAZ = true → t.HAZ = true) ∧
    (s.LINK.OPENED = true → t.LINK = s.LINK) ∧ t.CFG = s.CFG ∧ (s.GPIO_DIR = .outputs → t.GPIO_DIR = .outputs)

/-- The state at process start (10_state.md R51, 70_reset_and_hazards.md R250). The level of the lines and `LINK.EFF`
are unspecified and not stated. -/
def Obligations.ResetState : Prop :=
  let s := State.reset
  s.GPIO_DIR = .unconfigured ∧ s.TXBUF = none ∧ s.RXBUF = none ∧ s.CNT = none ∧
  s.LINK.OPENED = false ∧ s.LINK.REQ = s.CFG.REQ ∧ s.LINK.WARN = none ∧
  (∀ c, s.RES.get c = none) ∧ (∀ c, s.ENC.get c = .uninitialized) ∧ s.FAULT = none ∧ s.HAZ = false ∧
  s.SENT = 0 ∧ s.RCVD = 0 ∧ s.SNAP_SENT = 0 ∧ s.SNAP_RCVD = 0 ∧ s.LAST_T = none ∧
  (s.PHASE, s.CH, s.STEP) = (.setup, 0, 0) ∧ s.TRACE = [] ∧ s.OUT = [] ∧ s.EXIT = .running

/-! Invariants and runs. -/

/-- Every step keeps the machine's invariant, whoever issues the operations (10_state.md R52 (a), (b), (c), (e)). -/
def Obligations.StepKeepsTheInvariant : Prop :=
  ∀ s t : State, MachineInv s → step s = .next t → MachineInv t

/-- The invariant holds at process start, for every configuration and whatever the unspecified values are. -/
def Obligations.ResetMeetsTheInvariant : Prop :=
  MachineInv State.reset ∧ ∀ (cfg : Cfg) (levels : Pattern) (eff : LinkParams) (env : Environment),
    MachineInv (State.resetWith cfg levels eff env)

/-- Every step of the sequencer keeps what holds at its position: no duty is broken, no channel is read before it is
programmed, every exchange lies in its bracket and every slot is set before it is emitted (70_reset_and_hazards.md R259,
43_polling_loop.md R181, R185, R190, R192). -/
def Obligations.SequencerKeepsItsInvariant : Prop :=
  ∀ s t : State, SequencerInv s → step s = .next t → SequencerInv t

/-- The sequencer's invariant holds at process start. -/
def Obligations.ResetMeetsTheSequencerInvariant : Prop :=
  SequencerInv State.reset ∧ ∀ (cfg : Cfg) (levels : Pattern) (eff : LinkParams) (env : Environment),
    SequencerInv (State.resetWith cfg levels eff env)

/-- None of the refusals occurs in a run of the sequencer (70_reset_and_hazards.md R262), on a link inside the subset
the encoder protocol admits (40_transport.md R131). -/
def Obligations.SequencerIsNeverRefused : Prop :=
  ∀ s : State, MachineInv s → SequencerInv s → s.live → (s.LINK.OPENED = true → s.admitted = true) → ∃ t, step s = .next t

/-- Every step of the sequencer that does not halt the machine brings it one step nearer to `Done`
(43_polling_loop.md R177, R183). -/
def Obligations.SequencerStepsCountDown : Prop :=
  ∀ s t : State, SequencerInv s → step s = .next t → t.PHASE ≠ .halted →
    t.stepsLeft + 1 = s.stepsLeft ∧ (t.stepsLeft = 0 ↔ t.PHASE = .done)

/-- A run that ends in `Done` (43_polling_loop.md R190): the lines are idle, no cycle is left, one result was emitted
per cycle, `3N + 5NK` bytes were moved each way, no fault, no broken duty, exit status 0, the link still open, every
channel configured, and the run took `3 + 12N + K(5N + 3)` steps. -/
def Obligations.CompletedRunIsAccountedFor : Prop :=
  ∀ (cfg : Cfg) (levels : Pattern) (eff : LinkParams) (env : Environment) (n : Nat) (t : State),
    stepsTo n (State.resetWith cfg levels eff env) t → t.PHASE = .done →
    let k := cfg.K.getD 1
    t.A = cfg.IDLE_PATTERN ∧ t.CYC = some 0 ∧ resultsIn t.OUT = k ∧
      t.SENT = 3 * cfg.N + 5 * cfg.N * k ∧ t.RCVD = 3 * cfg.N + 5 * cfg.N * k ∧ t.FAULT = none ∧ t.HAZ = false ∧
      t.EXIT = .exitedZero ∧ t.LINK.OPENED = true ∧ (∀ c : Chan, c.id ≤ cfg.N → t.ENC.get c = .configured) ∧
      n = 3 + 12 * cfg.N + k * (5 * cfg.N + 3)
end

