-- ==== Sys2Proof/Laws/State.lean ====
section
/-! SUPPORT. What each update of the state leaves in each field. -/

namespace Sys2Proof.Machine

@[simp] theorem State.drive_A (s : State) (p : Pattern) :
    (s.drive p).A = p := rfl
@[simp] theorem State.drive_GPIO_DIR (s : State) (p : Pattern) :
    (s.drive p).GPIO_DIR = s.GPIO_DIR := rfl
@[simp] theorem State.drive_TXBUF (s : State) (p : Pattern) :
    (s.drive p).TXBUF = s.TXBUF := rfl
@[simp] theorem State.drive_RXBUF (s : State) (p : Pattern) :
    (s.drive p).RXBUF = s.RXBUF := rfl
@[simp] theorem State.drive_CNT (s : State) (p : Pattern) :
    (s.drive p).CNT = s.CNT := rfl
@[simp] theorem State.drive_LINK (s : State) (p : Pattern) :
    (s.drive p).LINK = s.LINK := rfl
@[simp] theorem State.drive_RES (s : State) (p : Pattern) :
    (s.drive p).RES = s.RES := rfl
@[simp] theorem State.drive_ENC (s : State) (p : Pattern) :
    (s.drive p).ENC = s.ENC := rfl
@[simp] theorem State.drive_FAULT (s : State) (p : Pattern) :
    (s.drive p).FAULT = s.FAULT := rfl
@[simp] theorem State.drive_HAZ (s : State) (p : Pattern) :
    (s.drive p).HAZ = s.HAZ := rfl
@[simp] theorem State.drive_SENT (s : State) (p : Pattern) :
    (s.drive p).SENT = s.SENT := rfl
@[simp] theorem State.drive_RCVD (s : State) (p : Pattern) :
    (s.drive p).RCVD = s.RCVD := rfl
@[simp] theorem State.drive_SNAP_SENT (s : State) (p : Pattern) :
    (s.drive p).SNAP_SENT = s.SNAP_SENT := rfl
@[simp] theorem State.drive_SNAP_RCVD (s : State) (p : Pattern) :
    (s.drive p).SNAP_RCVD = s.SNAP_RCVD := rfl
@[simp] theorem State.drive_LAST_T (s : State) (p : Pattern) :
    (s.drive p).LAST_T = s.LAST_T := rfl
@[simp] theorem State.drive_PHASE (s : State) (p : Pattern) :
    (s.drive p).PHASE = s.PHASE := rfl
@[simp] theorem State.drive_CH (s : State) (p : Pattern) :
    (s.drive p).CH = s.CH := rfl
@[simp] theorem State.drive_STEP (s : State) (p : Pattern) :
    (s.drive p).STEP = s.STEP := rfl
@[simp] theorem State.drive_CYC (s : State) (p : Pattern) :
    (s.drive p).CYC = s.CYC := rfl
@[simp] theorem State.drive_TRACE (s : State) (p : Pattern) :
    (s.drive p).TRACE = s.TRACE ++ [.drv p] := rfl
@[simp] theorem State.drive_OUT (s : State) (p : Pattern) :
    (s.drive p).OUT = s.OUT := rfl
@[simp] theorem State.drive_EXIT (s : State) (p : Pattern) :
    (s.drive p).EXIT = s.EXIT := rfl
@[simp] theorem State.drive_CFG (s : State) (p : Pattern) :
    (s.drive p).CFG = s.CFG := rfl
@[simp] theorem State.drive_RET (s : State) (p : Pattern) :
    (s.drive p).RET = s.RET := rfl
@[simp] theorem State.drive_ENV (s : State) (p : Pattern) :
    (s.drive p).ENV = s.ENV := rfl
@[simp] theorem State.drive_REQS (s : State) (p : Pattern) :
    (s.drive p).REQS = s.REQS := rfl

@[simp] theorem State.emit_A (s : State) (e : OutEvent) :
    (s.emit e).A = s.A := rfl
@[simp] theorem State.emit_GPIO_DIR (s : State) (e : OutEvent) :
    (s.emit e).GPIO_DIR = s.GPIO_DIR := rfl
@[simp] theorem State.emit_TXBUF (s : State) (e : OutEvent) :
    (s.emit e).TXBUF = s.TXBUF := rfl
@[simp] theorem State.emit_RXBUF (s : State) (e : OutEvent) :
    (s.emit e).RXBUF = s.RXBUF := rfl
@[simp] theorem State.emit_CNT (s : State) (e : OutEvent) :
    (s.emit e).CNT = s.CNT := rfl
@[simp] theorem State.emit_LINK (s : State) (e : OutEvent) :
    (s.emit e).LINK = s.LINK := rfl
@[simp] theorem State.emit_RES (s : State) (e : OutEvent) :
    (s.emit e).RES = s.RES := rfl
@[simp] theorem State.emit_ENC (s : State) (e : OutEvent) :
    (s.emit e).ENC = s.ENC := rfl
@[simp] theorem State.emit_FAULT (s : State) (e : OutEvent) :
    (s.emit e).FAULT = s.FAULT := rfl
@[simp] theorem State.emit_HAZ (s : State) (e : OutEvent) :
    (s.emit e).HAZ = s.HAZ := rfl
@[simp] theorem State.emit_SENT (s : State) (e : OutEvent) :
    (s.emit e).SENT = s.SENT := rfl
@[simp] theorem State.emit_RCVD (s : State) (e : OutEvent) :
    (s.emit e).RCVD = s.RCVD := rfl
@[simp] theorem State.emit_SNAP_SENT (s : State) (e : OutEvent) :
    (s.emit e).SNAP_SENT = s.SNAP_SENT := rfl
@[simp] theorem State.emit_SNAP_RCVD (s : State) (e : OutEvent) :
    (s.emit e).SNAP_RCVD = s.SNAP_RCVD := rfl
@[simp] theorem State.emit_LAST_T (s : State) (e : OutEvent) :
    (s.emit e).LAST_T = s.LAST_T := rfl
@[simp] theorem State.emit_PHASE (s : State) (e : OutEvent) :
    (s.emit e).PHASE = s.PHASE := rfl
@[simp] theorem State.emit_CH (s : State) (e : OutEvent) :
    (s.emit e).CH = s.CH := rfl
@[simp] theorem State.emit_STEP (s : State) (e : OutEvent) :
    (s.emit e).STEP = s.STEP := rfl
@[simp] theorem State.emit_CYC (s : State) (e : OutEvent) :
    (s.emit e).CYC = s.CYC := rfl
@[simp] theorem State.emit_TRACE (s : State) (e : OutEvent) :
    (s.emit e).TRACE = s.TRACE := rfl
@[simp] theorem State.emit_OUT (s : State) (e : OutEvent) :
    (s.emit e).OUT = s.OUT ++ [e] := rfl
@[simp] theorem State.emit_EXIT (s : State) (e : OutEvent) :
    (s.emit e).EXIT = s.EXIT := rfl
@[simp] theorem State.emit_CFG (s : State) (e : OutEvent) :
    (s.emit e).CFG = s.CFG := rfl
@[simp] theorem State.emit_RET (s : State) (e : OutEvent) :
    (s.emit e).RET = s.RET := rfl
@[simp] theorem State.emit_ENV (s : State) (e : OutEvent) :
    (s.emit e).ENV = s.ENV := rfl
@[simp] theorem State.emit_REQS (s : State) (e : OutEvent) :
    (s.emit e).REQS = s.REQS := rfl

@[simp] theorem State.noteBreach_A (s : State) (b : Bool) :
    (s.noteBreach b).A = s.A := rfl
@[simp] theorem State.noteBreach_GPIO_DIR (s : State) (b : Bool) :
    (s.noteBreach b).GPIO_DIR = s.GPIO_DIR := rfl
@[simp] theorem State.noteBreach_TXBUF (s : State) (b : Bool) :
    (s.noteBreach b).TXBUF = s.TXBUF := rfl
@[simp] theorem State.noteBreach_RXBUF (s : State) (b : Bool) :
    (s.noteBreach b).RXBUF = s.RXBUF := rfl
@[simp] theorem State.noteBreach_CNT (s : State) (b : Bool) :
    (s.noteBreach b).CNT = s.CNT := rfl
@[simp] theorem State.noteBreach_LINK (s : State) (b : Bool) :
    (s.noteBreach b).LINK = s.LINK := rfl
@[simp] theorem State.noteBreach_RES (s : State) (b : Bool) :
    (s.noteBreach b).RES = s.RES := rfl
@[simp] theorem State.noteBreach_ENC (s : State) (b : Bool) :
    (s.noteBreach b).ENC = s.ENC := rfl
@[simp] theorem State.noteBreach_FAULT (s : State) (b : Bool) :
    (s.noteBreach b).FAULT = s.FAULT := rfl
@[simp] theorem State.noteBreach_HAZ (s : State) (b : Bool) :
    (s.noteBreach b).HAZ = (s.HAZ || b) := rfl
@[simp] theorem State.noteBreach_SENT (s : State) (b : Bool) :
    (s.noteBreach b).SENT = s.SENT := rfl
@[simp] theorem State.noteBreach_RCVD (s : State) (b : Bool) :
    (s.noteBreach b).RCVD = s.RCVD := rfl
@[simp] theorem State.noteBreach_SNAP_SENT (s : State) (b : Bool) :
    (s.noteBreach b).SNAP_SENT = s.SNAP_SENT := rfl
@[simp] theorem State.noteBreach_SNAP_RCVD (s : State) (b : Bool) :
    (s.noteBreach b).SNAP_RCVD = s.SNAP_RCVD := rfl
@[simp] theorem State.noteBreach_LAST_T (s : State) (b : Bool) :
    (s.noteBreach b).LAST_T = s.LAST_T := rfl
@[simp] theorem State.noteBreach_PHASE (s : State) (b : Bool) :
    (s.noteBreach b).PHASE = s.PHASE := rfl
@[simp] theorem State.noteBreach_CH (s : State) (b : Bool) :
    (s.noteBreach b).CH = s.CH := rfl
@[simp] theorem State.noteBreach_STEP (s : State) (b : Bool) :
    (s.noteBreach b).STEP = s.STEP := rfl
@[simp] theorem State.noteBreach_CYC (s : State) (b : Bool) :
    (s.noteBreach b).CYC = s.CYC := rfl
@[simp] theorem State.noteBreach_TRACE (s : State) (b : Bool) :
    (s.noteBreach b).TRACE = s.TRACE := rfl
@[simp] theorem State.noteBreach_OUT (s : State) (b : Bool) :
    (s.noteBreach b).OUT = s.OUT := rfl
@[simp] theorem State.noteBreach_EXIT (s : State) (b : Bool) :
    (s.noteBreach b).EXIT = s.EXIT := rfl
@[simp] theorem State.noteBreach_CFG (s : State) (b : Bool) :
    (s.noteBreach b).CFG = s.CFG := rfl
@[simp] theorem State.noteBreach_RET (s : State) (b : Bool) :
    (s.noteBreach b).RET = s.RET := rfl
@[simp] theorem State.noteBreach_ENV (s : State) (b : Bool) :
    (s.noteBreach b).ENV = s.ENV := rfl
@[simp] theorem State.noteBreach_REQS (s : State) (b : Bool) :
    (s.noteBreach b).REQS = s.REQS := rfl

@[simp] theorem State.forgetEff_A (s : State) :
    (s.forgetEff).A = s.A := rfl
@[simp] theorem State.forgetEff_GPIO_DIR (s : State) :
    (s.forgetEff).GPIO_DIR = s.GPIO_DIR := rfl
@[simp] theorem State.forgetEff_TXBUF (s : State) :
    (s.forgetEff).TXBUF = s.TXBUF := rfl
@[simp] theorem State.forgetEff_RXBUF (s : State) :
    (s.forgetEff).RXBUF = s.RXBUF := rfl
@[simp] theorem State.forgetEff_CNT (s : State) :
    (s.forgetEff).CNT = s.CNT := rfl
@[simp] theorem State.forgetEff_LINK (s : State) :
    (s.forgetEff).LINK = { s.LINK with EFF := Config.failedEff s.ENV.drawn } := rfl
@[simp] theorem State.forgetEff_RES (s : State) :
    (s.forgetEff).RES = s.RES := rfl
@[simp] theorem State.forgetEff_ENC (s : State) :
    (s.forgetEff).ENC = s.ENC := rfl
@[simp] theorem State.forgetEff_FAULT (s : State) :
    (s.forgetEff).FAULT = s.FAULT := rfl
@[simp] theorem State.forgetEff_HAZ (s : State) :
    (s.forgetEff).HAZ = s.HAZ := rfl
@[simp] theorem State.forgetEff_SENT (s : State) :
    (s.forgetEff).SENT = s.SENT := rfl
@[simp] theorem State.forgetEff_RCVD (s : State) :
    (s.forgetEff).RCVD = s.RCVD := rfl
@[simp] theorem State.forgetEff_SNAP_SENT (s : State) :
    (s.forgetEff).SNAP_SENT = s.SNAP_SENT := rfl
@[simp] theorem State.forgetEff_SNAP_RCVD (s : State) :
    (s.forgetEff).SNAP_RCVD = s.SNAP_RCVD := rfl
@[simp] theorem State.forgetEff_LAST_T (s : State) :
    (s.forgetEff).LAST_T = s.LAST_T := rfl
@[simp] theorem State.forgetEff_PHASE (s : State) :
    (s.forgetEff).PHASE = s.PHASE := rfl
@[simp] theorem State.forgetEff_CH (s : State) :
    (s.forgetEff).CH = s.CH := rfl
@[simp] theorem State.forgetEff_STEP (s : State) :
    (s.forgetEff).STEP = s.STEP := rfl
@[simp] theorem State.forgetEff_CYC (s : State) :
    (s.forgetEff).CYC = s.CYC := rfl
@[simp] theorem State.forgetEff_TRACE (s : State) :
    (s.forgetEff).TRACE = s.TRACE := rfl
@[simp] theorem State.forgetEff_OUT (s : State) :
    (s.forgetEff).OUT = s.OUT := rfl
@[simp] theorem State.forgetEff_EXIT (s : State) :
    (s.forgetEff).EXIT = s.EXIT := rfl
@[simp] theorem State.forgetEff_CFG (s : State) :
    (s.forgetEff).CFG = s.CFG := rfl
@[simp] theorem State.forgetEff_RET (s : State) :
    (s.forgetEff).RET = s.RET := rfl
@[simp] theorem State.forgetEff_ENV (s : State) :
    (s.forgetEff).ENV = { s.ENV with drawn := s.ENV.drawn + 1 } := rfl
@[simp] theorem State.forgetEff_REQS (s : State) :
    (s.forgetEff).REQS = s.REQS := rfl

@[simp] theorem State.allocate_A (s : State) (tx : Option (List Byte)) (b : Bool) (n : Nat) :
    (s.allocate tx b n).A = s.A := rfl
@[simp] theorem State.allocate_GPIO_DIR (s : State) (tx : Option (List Byte)) (b : Bool) (n : Nat) :
    (s.allocate tx b n).GPIO_DIR = s.GPIO_DIR := rfl
@[simp] theorem State.allocate_TXBUF (s : State) (tx : Option (List Byte)) (b : Bool) (n : Nat) :
    (s.allocate tx b n).TXBUF = tx := rfl
@[simp] theorem State.allocate_RXBUF (s : State) (tx : Option (List Byte)) (b : Bool) (n : Nat) :
    (s.allocate tx b n).RXBUF = if b then some ((List.range n).map Config.undefinedByte) else none := rfl
@[simp] theorem State.allocate_CNT (s : State) (tx : Option (List Byte)) (b : Bool) (n : Nat) :
    (s.allocate tx b n).CNT = s.CNT := rfl
@[simp] theorem State.allocate_LINK (s : State) (tx : Option (List Byte)) (b : Bool) (n : Nat) :
    (s.allocate tx b n).LINK = s.LINK := rfl
@[simp] theorem State.allocate_RES (s : State) (tx : Option (List Byte)) (b : Bool) (n : Nat) :
    (s.allocate tx b n).RES = s.RES := rfl
@[simp] theorem State.allocate_ENC (s : State) (tx : Option (List Byte)) (b : Bool) (n : Nat) :
    (s.allocate tx b n).ENC = s.ENC := rfl
@[simp] theorem State.allocate_FAULT (s : State) (tx : Option (List Byte)) (b : Bool) (n : Nat) :
    (s.allocate tx b n).FAULT = s.FAULT := rfl
@[simp] theorem State.allocate_HAZ (s : State) (tx : Option (List Byte)) (b : Bool) (n : Nat) :
    (s.allocate tx b n).HAZ = s.HAZ := rfl
@[simp] theorem State.allocate_SENT (s : State) (tx : Option (List Byte)) (b : Bool) (n : Nat) :
    (s.allocate tx b n).SENT = s.SENT := rfl
@[simp] theorem State.allocate_RCVD (s : State) (tx : Option (List Byte)) (b : Bool) (n : Nat) :
    (s.allocate tx b n).RCVD = s.RCVD := rfl
@[simp] theorem State.allocate_SNAP_SENT (s : State) (tx : Option (List Byte)) (b : Bool) (n : Nat) :
    (s.allocate tx b n).SNAP_SENT = s.SNAP_SENT := rfl
@[simp] theorem State.allocate_SNAP_RCVD (s : State) (tx : Option (List Byte)) (b : Bool) (n : Nat) :
    (s.allocate tx b n).SNAP_RCVD = s.SNAP_RCVD := rfl
@[simp] theorem State.allocate_LAST_T (s : State) (tx : Option (List Byte)) (b : Bool) (n : Nat) :
    (s.allocate tx b n).LAST_T = s.LAST_T := rfl
@[simp] theorem State.allocate_PHASE (s : State) (tx : Option (List Byte)) (b : Bool) (n : Nat) :
    (s.allocate tx b n).PHASE = s.PHASE := rfl
@[simp] theorem State.allocate_CH (s : State) (tx : Option (List Byte)) (b : Bool) (n : Nat) :
    (s.allocate tx b n).CH = s.CH := rfl
@[simp] theorem State.allocate_STEP (s : State) (tx : Option (List Byte)) (b : Bool) (n : Nat) :
    (s.allocate tx b n).STEP = s.STEP := rfl
@[simp] theorem State.allocate_CYC (s : State) (tx : Option (List Byte)) (b : Bool) (n : Nat) :
    (s.allocate tx b n).CYC = s.CYC := rfl
@[simp] theorem State.allocate_TRACE (s : State) (tx : Option (List Byte)) (b : Bool) (n : Nat) :
    (s.allocate tx b n).TRACE = s.TRACE := rfl
@[simp] theorem State.allocate_OUT (s : State) (tx : Option (List Byte)) (b : Bool) (n : Nat) :
    (s.allocate tx b n).OUT = s.OUT := rfl
@[simp] theorem State.allocate_EXIT (s : State) (tx : Option (List Byte)) (b : Bool) (n : Nat) :
    (s.allocate tx b n).EXIT = s.EXIT := rfl
@[simp] theorem State.allocate_CFG (s : State) (tx : Option (List Byte)) (b : Bool) (n : Nat) :
    (s.allocate tx b n).CFG = s.CFG := rfl
@[simp] theorem State.allocate_RET (s : State) (tx : Option (List Byte)) (b : Bool) (n : Nat) :
    (s.allocate tx b n).RET = s.RET := rfl
@[simp] theorem State.allocate_ENV (s : State) (tx : Option (List Byte)) (b : Bool) (n : Nat) :
    (s.allocate tx b n).ENV = s.ENV := rfl
@[simp] theorem State.allocate_REQS (s : State) (tx : Option (List Byte)) (b : Bool) (n : Nat) :
    (s.allocate tx b n).REQS = s.REQS := rfl

@[simp] theorem State.release_A (s : State) :
    (s.release).A = s.A := rfl
@[simp] theorem State.release_GPIO_DIR (s : State) :
    (s.release).GPIO_DIR = s.GPIO_DIR := rfl
@[simp] theorem State.release_TXBUF (s : State) :
    (s.release).TXBUF = none := rfl
@[simp] theorem State.release_RXBUF (s : State) :
    (s.release).RXBUF = none := rfl
@[simp] theorem State.release_CNT (s : State) :
    (s.release).CNT = s.CNT := rfl
@[simp] theorem State.release_LINK (s : State) :
    (s.release).LINK = s.LINK := rfl
@[simp] theorem State.release_RES (s : State) :
    (s.release).RES = s.RES := rfl
@[simp] theorem State.release_ENC (s : State) :
    (s.release).ENC = s.ENC := rfl
@[simp] theorem State.release_FAULT (s : State) :
    (s.release).FAULT = s.FAULT := rfl
@[simp] theorem State.release_HAZ (s : State) :
    (s.release).HAZ = s.HAZ := rfl
@[simp] theorem State.release_SENT (s : State) :
    (s.release).SENT = s.SENT := rfl
@[simp] theorem State.release_RCVD (s : State) :
    (s.release).RCVD = s.RCVD := rfl
@[simp] theorem State.release_SNAP_SENT (s : State) :
    (s.release).SNAP_SENT = s.SNAP_SENT := rfl
@[simp] theorem State.release_SNAP_RCVD (s : State) :
    (s.release).SNAP_RCVD = s.SNAP_RCVD := rfl
@[simp] theorem State.release_LAST_T (s : State) :
    (s.release).LAST_T = s.LAST_T := rfl
@[simp] theorem State.release_PHASE (s : State) :
    (s.release).PHASE = s.PHASE := rfl
@[simp] theorem State.release_CH (s : State) :
    (s.release).CH = s.CH := rfl
@[simp] theorem State.release_STEP (s : State) :
    (s.release).STEP = s.STEP := rfl
@[simp] theorem State.release_CYC (s : State) :
    (s.release).CYC = s.CYC := rfl
@[simp] theorem State.release_TRACE (s : State) :
    (s.release).TRACE = s.TRACE := rfl
@[simp] theorem State.release_OUT (s : State) :
    (s.release).OUT = s.OUT := rfl
@[simp] theorem State.release_EXIT (s : State) :
    (s.release).EXIT = s.EXIT := rfl
@[simp] theorem State.release_CFG (s : State) :
    (s.release).CFG = s.CFG := rfl
@[simp] theorem State.release_RET (s : State) :
    (s.release).RET = s.RET := rfl
@[simp] theorem State.release_ENV (s : State) :
    (s.release).ENV = s.ENV := rfl
@[simp] theorem State.release_REQS (s : State) :
    (s.release).REQS = s.REQS := rfl

@[simp] theorem State.exchanged_A (s : State) (n : Nat) (tx rx : Option (List Byte)) :
    (s.exchanged n tx rx).A = s.A := rfl
@[simp] theorem State.exchanged_GPIO_DIR (s : State) (n : Nat) (tx rx : Option (List Byte)) :
    (s.exchanged n tx rx).GPIO_DIR = s.GPIO_DIR := rfl
@[simp] theorem State.exchanged_TXBUF (s : State) (n : Nat) (tx rx : Option (List Byte)) :
    (s.exchanged n tx rx).TXBUF = none := rfl
@[simp] theorem State.exchanged_RXBUF (s : State) (n : Nat) (tx rx : Option (List Byte)) :
    (s.exchanged n tx rx).RXBUF = none := rfl
@[simp] theorem State.exchanged_CNT (s : State) (n : Nat) (tx rx : Option (List Byte)) :
    (s.exchanged n tx rx).CNT = s.CNT := rfl
@[simp] theorem State.exchanged_LINK (s : State) (n : Nat) (tx rx : Option (List Byte)) :
    (s.exchanged n tx rx).LINK = s.LINK := rfl
@[simp] theorem State.exchanged_RES (s : State) (n : Nat) (tx rx : Option (List Byte)) :
    (s.exchanged n tx rx).RES = s.RES := rfl
@[simp] theorem State.exchanged_ENC (s : State) (n : Nat) (tx rx : Option (List Byte)) :
    (s.exchanged n tx rx).ENC = s.ENC := rfl
@[simp] theorem State.exchanged_FAULT (s : State) (n : Nat) (tx rx : Option (List Byte)) :
    (s.exchanged n tx rx).FAULT = s.FAULT := rfl
@[simp] theorem State.exchanged_HAZ (s : State) (n : Nat) (tx rx : Option (List Byte)) :
    (s.exchanged n tx rx).HAZ = s.HAZ := rfl
@[simp] theorem State.exchanged_SENT (s : State) (n : Nat) (tx rx : Option (List Byte)) :
    (s.exchanged n tx rx).SENT = s.SENT + n := rfl
@[simp] theorem State.exchanged_RCVD (s : State) (n : Nat) (tx rx : Option (List Byte)) :
    (s.exchanged n tx rx).RCVD = s.RCVD + n := rfl
@[simp] theorem State.exchanged_SNAP_SENT (s : State) (n : Nat) (tx rx : Option (List Byte)) :
    (s.exchanged n tx rx).SNAP_SENT = s.SNAP_SENT := rfl
@[simp] theorem State.exchanged_SNAP_RCVD (s : State) (n : Nat) (tx rx : Option (List Byte)) :
    (s.exchanged n tx rx).SNAP_RCVD = s.SNAP_RCVD := rfl
@[simp] theorem State.exchanged_LAST_T (s : State) (n : Nat) (tx rx : Option (List Byte)) :
    (s.exchanged n tx rx).LAST_T = s.LAST_T := rfl
@[simp] theorem State.exchanged_PHASE (s : State) (n : Nat) (tx rx : Option (List Byte)) :
    (s.exchanged n tx rx).PHASE = s.PHASE := rfl
@[simp] theorem State.exchanged_CH (s : State) (n : Nat) (tx rx : Option (List Byte)) :
    (s.exchanged n tx rx).CH = s.CH := rfl
@[simp] theorem State.exchanged_STEP (s : State) (n : Nat) (tx rx : Option (List Byte)) :
    (s.exchanged n tx rx).STEP = s.STEP := rfl
@[simp] theorem State.exchanged_CYC (s : State) (n : Nat) (tx rx : Option (List Byte)) :
    (s.exchanged n tx rx).CYC = s.CYC := rfl
@[simp] theorem State.exchanged_TRACE (s : State) (n : Nat) (tx rx : Option (List Byte)) :
    (s.exchanged n tx rx).TRACE = s.TRACE ++ [.xfr s.A tx rx] := rfl
@[simp] theorem State.exchanged_OUT (s : State) (n : Nat) (tx rx : Option (List Byte)) :
    (s.exchanged n tx rx).OUT = s.OUT := rfl
@[simp] theorem State.exchanged_EXIT (s : State) (n : Nat) (tx rx : Option (List Byte)) :
    (s.exchanged n tx rx).EXIT = s.EXIT := rfl
@[simp] theorem State.exchanged_CFG (s : State) (n : Nat) (tx rx : Option (List Byte)) :
    (s.exchanged n tx rx).CFG = s.CFG := rfl
@[simp] theorem State.exchanged_RET (s : State) (n : Nat) (tx rx : Option (List Byte)) :
    (s.exchanged n tx rx).RET = s.RET := rfl
@[simp] theorem State.exchanged_ENV (s : State) (n : Nat) (tx rx : Option (List Byte)) :
    (s.exchanged n tx rx).ENV = s.ENV := rfl
@[simp] theorem State.exchanged_REQS (s : State) (n : Nat) (tx rx : Option (List Byte)) :
    (s.exchanged n tx rx).REQS = s.REQS := rfl

@[simp] theorem State.halt_A (s : State) (k : ErrKind) (i : ErrInfo) :
    (s.halt k i).A = s.A := rfl
@[simp] theorem State.halt_GPIO_DIR (s : State) (k : ErrKind) (i : ErrInfo) :
    (s.halt k i).GPIO_DIR = s.GPIO_DIR := rfl
@[simp] theorem State.halt_TXBUF (s : State) (k : ErrKind) (i : ErrInfo) :
    (s.halt k i).TXBUF = s.TXBUF := rfl
@[simp] theorem State.halt_RXBUF (s : State) (k : ErrKind) (i : ErrInfo) :
    (s.halt k i).RXBUF = s.RXBUF := rfl
@[simp] theorem State.halt_CNT (s : State) (k : ErrKind) (i : ErrInfo) :
    (s.halt k i).CNT = s.CNT := rfl
@[simp] theorem State.halt_LINK (s : State) (k : ErrKind) (i : ErrInfo) :
    (s.halt k i).LINK = s.LINK := rfl
@[simp] theorem State.halt_RES (s : State) (k : ErrKind) (i : ErrInfo) :
    (s.halt k i).RES = s.RES := rfl
@[simp] theorem State.halt_ENC (s : State) (k : ErrKind) (i : ErrInfo) :
    (s.halt k i).ENC = s.ENC := rfl
@[simp] theorem State.halt_FAULT (s : State) (k : ErrKind) (i : ErrInfo) :
    (s.halt k i).FAULT = some ⟨k, k.code, i⟩ := rfl
@[simp] theorem State.halt_HAZ (s : State) (k : ErrKind) (i : ErrInfo) :
    (s.halt k i).HAZ = s.HAZ := rfl
@[simp] theorem State.halt_SENT (s : State) (k : ErrKind) (i : ErrInfo) :
    (s.halt k i).SENT = s.SENT := rfl
@[simp] theorem State.halt_RCVD (s : State) (k : ErrKind) (i : ErrInfo) :
    (s.halt k i).RCVD = s.RCVD := rfl
@[simp] theorem State.halt_SNAP_SENT (s : State) (k : ErrKind) (i : ErrInfo) :
    (s.halt k i).SNAP_SENT = s.SNAP_SENT := rfl
@[simp] theorem State.halt_SNAP_RCVD (s : State) (k : ErrKind) (i : ErrInfo) :
    (s.halt k i).SNAP_RCVD = s.SNAP_RCVD := rfl
@[simp] theorem State.halt_LAST_T (s : State) (k : ErrKind) (i : ErrInfo) :
    (s.halt k i).LAST_T = s.LAST_T := rfl
@[simp] theorem State.halt_PHASE (s : State) (k : ErrKind) (i : ErrInfo) :
    (s.halt k i).PHASE = .halted := rfl
@[simp] theorem State.halt_CH (s : State) (k : ErrKind) (i : ErrInfo) :
    (s.halt k i).CH = s.CH := rfl
@[simp] theorem State.halt_STEP (s : State) (k : ErrKind) (i : ErrInfo) :
    (s.halt k i).STEP = s.STEP := rfl
@[simp] theorem State.halt_CYC (s : State) (k : ErrKind) (i : ErrInfo) :
    (s.halt k i).CYC = s.CYC := rfl
@[simp] theorem State.halt_TRACE (s : State) (k : ErrKind) (i : ErrInfo) :
    (s.halt k i).TRACE = s.TRACE := rfl
@[simp] theorem State.halt_OUT (s : State) (k : ErrKind) (i : ErrInfo) :
    (s.halt k i).OUT = s.OUT ++ [.fatal k k.code i] := rfl
@[simp] theorem State.halt_EXIT (s : State) (k : ErrKind) (i : ErrInfo) :
    (s.halt k i).EXIT = .exitedNonzero := rfl
@[simp] theorem State.halt_CFG (s : State) (k : ErrKind) (i : ErrInfo) :
    (s.halt k i).CFG = s.CFG := rfl
@[simp] theorem State.halt_RET (s : State) (k : ErrKind) (i : ErrInfo) :
    (s.halt k i).RET = s.RET := rfl
@[simp] theorem State.halt_ENV (s : State) (k : ErrKind) (i : ErrInfo) :
    (s.halt k i).ENV = s.ENV := rfl
@[simp] theorem State.halt_REQS (s : State) (k : ErrKind) (i : ErrInfo) :
    (s.halt k i).REQS = s.REQS := rfl

@[simp] theorem State.advance_A (s : State) :
    (s.advance).A = s.A := rfl
@[simp] theorem State.advance_GPIO_DIR (s : State) :
    (s.advance).GPIO_DIR = s.GPIO_DIR := rfl
@[simp] theorem State.advance_TXBUF (s : State) :
    (s.advance).TXBUF = s.TXBUF := rfl
@[simp] theorem State.advance_RXBUF (s : State) :
    (s.advance).RXBUF = s.RXBUF := rfl
@[simp] theorem State.advance_CNT (s : State) :
    (s.advance).CNT = s.CNT := rfl
@[simp] theorem State.advance_LINK (s : State) :
    (s.advance).LINK = s.LINK := rfl
@[simp] theorem State.advance_RES (s : State) :
    (s.advance).RES = s.RES := rfl
@[simp] theorem State.advance_ENC (s : State) :
    (s.advance).ENC = s.ENC := rfl
@[simp] theorem State.advance_FAULT (s : State) :
    (s.advance).FAULT = s.FAULT := rfl
@[simp] theorem State.advance_HAZ (s : State) :
    (s.advance).HAZ = s.HAZ := rfl
@[simp] theorem State.advance_SENT (s : State) :
    (s.advance).SENT = s.SENT := rfl
@[simp] theorem State.advance_RCVD (s : State) :
    (s.advance).RCVD = s.RCVD := rfl
@[simp] theorem State.advance_SNAP_SENT (s : State) :
    (s.advance).SNAP_SENT = s.SNAP_SENT := rfl
@[simp] theorem State.advance_SNAP_RCVD (s : State) :
    (s.advance).SNAP_RCVD = s.SNAP_RCVD := rfl
@[simp] theorem State.advance_LAST_T (s : State) :
    (s.advance).LAST_T = s.LAST_T := rfl
@[simp] theorem State.advance_PHASE (s : State) :
    (s.advance).PHASE = s.nextPos.1 := rfl
@[simp] theorem State.advance_CH (s : State) :
    (s.advance).CH = s.nextPos.2.1 := rfl
@[simp] theorem State.advance_STEP (s : State) :
    (s.advance).STEP = s.nextPos.2.2 := rfl
@[simp] theorem State.advance_CYC (s : State) :
    (s.advance).CYC = s.CYC := rfl
@[simp] theorem State.advance_TRACE (s : State) :
    (s.advance).TRACE = s.TRACE := rfl
@[simp] theorem State.advance_OUT (s : State) :
    (s.advance).OUT = s.OUT := rfl
@[simp] theorem State.advance_EXIT (s : State) :
    (s.advance).EXIT = if s.nextPos.1 = .done then .exitedZero else s.EXIT := rfl
@[simp] theorem State.advance_CFG (s : State) :
    (s.advance).CFG = s.CFG := rfl
@[simp] theorem State.advance_RET (s : State) :
    (s.advance).RET = s.RET := rfl
@[simp] theorem State.advance_ENV (s : State) :
    (s.advance).ENV = s.ENV := rfl
@[simp] theorem State.advance_REQS (s : State) :
    (s.advance).REQS = s.REQS := rfl

@[simp] theorem State.reported_A (s : State) (now : Int) (tx rx : Ratio) :
    (s.reported now tx rx).A = s.A := rfl
@[simp] theorem State.reported_GPIO_DIR (s : State) (now : Int) (tx rx : Ratio) :
    (s.reported now tx rx).GPIO_DIR = s.GPIO_DIR := rfl
@[simp] theorem State.reported_TXBUF (s : State) (now : Int) (tx rx : Ratio) :
    (s.reported now tx rx).TXBUF = s.TXBUF := rfl
@[simp] theorem State.reported_RXBUF (s : State) (now : Int) (tx rx : Ratio) :
    (s.reported now tx rx).RXBUF = s.RXBUF := rfl
@[simp] theorem State.reported_CNT (s : State) (now : Int) (tx rx : Ratio) :
    (s.reported now tx rx).CNT = s.CNT := rfl
@[simp] theorem State.reported_LINK (s : State) (now : Int) (tx rx : Ratio) :
    (s.reported now tx rx).LINK = s.LINK := rfl
@[simp] theorem State.reported_RES (s : State) (now : Int) (tx rx : Ratio) :
    (s.reported now tx rx).RES = s.RES := rfl
@[simp] theorem State.reported_ENC (s : State) (now : Int) (tx rx : Ratio) :
    (s.reported now tx rx).ENC = s.ENC := rfl
@[simp] theorem State.reported_FAULT (s : State) (now : Int) (tx rx : Ratio) :
    (s.reported now tx rx).FAULT = s.FAULT := rfl
@[simp] theorem State.reported_HAZ (s : State) (now : Int) (tx rx : Ratio) :
    (s.reported now tx rx).HAZ = s.HAZ := rfl
@[simp] theorem State.reported_SENT (s : State) (now : Int) (tx rx : Ratio) :
    (s.reported now tx rx).SENT = s.SENT := rfl
@[simp] theorem State.reported_RCVD (s : State) (now : Int) (tx rx : Ratio) :
    (s.reported now tx rx).RCVD = s.RCVD := rfl
@[simp] theorem State.reported_SNAP_SENT (s : State) (now : Int) (tx rx : Ratio) :
    (s.reported now tx rx).SNAP_SENT = s.SENT := rfl
@[simp] theorem State.reported_SNAP_RCVD (s : State) (now : Int) (tx rx : Ratio) :
    (s.reported now tx rx).SNAP_RCVD = s.RCVD := rfl
@[simp] theorem State.reported_LAST_T (s : State) (now : Int) (tx rx : Ratio) :
    (s.reported now tx rx).LAST_T = some now := rfl
@[simp] theorem State.reported_PHASE (s : State) (now : Int) (tx rx : Ratio) :
    (s.reported now tx rx).PHASE = s.PHASE := rfl
@[simp] theorem State.reported_CH (s : State) (now : Int) (tx rx : Ratio) :
    (s.reported now tx rx).CH = s.CH := rfl
@[simp] theorem State.reported_STEP (s : State) (now : Int) (tx rx : Ratio) :
    (s.reported now tx rx).STEP = s.STEP := rfl
@[simp] theorem State.reported_CYC (s : State) (now : Int) (tx rx : Ratio) :
    (s.reported now tx rx).CYC = s.CYC := rfl
@[simp] theorem State.reported_TRACE (s : State) (now : Int) (tx rx : Ratio) :
    (s.reported now tx rx).TRACE = s.TRACE := rfl
@[simp] theorem State.reported_OUT (s : State) (now : Int) (tx rx : Ratio) :
    (s.reported now tx rx).OUT = s.OUT ++ [.report tx rx] := rfl
@[simp] theorem State.reported_EXIT (s : State) (now : Int) (tx rx : Ratio) :
    (s.reported now tx rx).EXIT = s.EXIT := rfl
@[simp] theorem State.reported_CFG (s : State) (now : Int) (tx rx : Ratio) :
    (s.reported now tx rx).CFG = s.CFG := rfl
@[simp] theorem State.reported_RET (s : State) (now : Int) (tx rx : Ratio) :
    (s.reported now tx rx).RET = s.RET := rfl
@[simp] theorem State.reported_ENV (s : State) (now : Int) (tx rx : Ratio) :
    (s.reported now tx rx).ENV = s.ENV := rfl
@[simp] theorem State.reported_REQS (s : State) (now : Int) (tx rx : Ratio) :
    (s.reported now tx rx).REQS = s.REQS := rfl

@[simp] theorem State.select_A (s : State) (c : Chan) :
    (s.select c).A = s.CFG.pattern c := rfl
@[simp] theorem State.select_GPIO_DIR (s : State) (c : Chan) :
    (s.select c).GPIO_DIR = s.GPIO_DIR := rfl
@[simp] theorem State.select_TXBUF (s : State) (c : Chan) :
    (s.select c).TXBUF = s.TXBUF := rfl
@[simp] theorem State.select_RXBUF (s : State) (c : Chan) :
    (s.select c).RXBUF = s.RXBUF := rfl
@[simp] theorem State.select_CNT (s : State) (c : Chan) :
    (s.select c).CNT = s.CNT := rfl
@[simp] theorem State.select_LINK (s : State) (c : Chan) :
    (s.select c).LINK = s.LINK := rfl
@[simp] theorem State.select_RES (s : State) (c : Chan) :
    (s.select c).RES = s.RES := rfl
@[simp] theorem State.select_ENC (s : State) (c : Chan) :
    (s.select c).ENC = s.ENC := rfl
@[simp] theorem State.select_FAULT (s : State) (c : Chan) :
    (s.select c).FAULT = s.FAULT := rfl
@[simp] theorem State.select_HAZ (s : State) (c : Chan) :
    (s.select c).HAZ = (s.HAZ || s.otherSelected c) := rfl
@[simp] theorem State.select_SENT (s : State) (c : Chan) :
    (s.select c).SENT = s.SENT := rfl
@[simp] theorem State.select_RCVD (s : State) (c : Chan) :
    (s.select c).RCVD = s.RCVD := rfl
@[simp] theorem State.select_SNAP_SENT (s : State) (c : Chan) :
    (s.select c).SNAP_SENT = s.SNAP_SENT := rfl
@[simp] theorem State.select_SNAP_RCVD (s : State) (c : Chan) :
    (s.select c).SNAP_RCVD = s.SNAP_RCVD := rfl
@[simp] theorem State.select_LAST_T (s : State) (c : Chan) :
    (s.select c).LAST_T = s.LAST_T := rfl
@[simp] theorem State.select_PHASE (s : State) (c : Chan) :
    (s.select c).PHASE = s.PHASE := rfl
@[simp] theorem State.select_CH (s : State) (c : Chan) :
    (s.select c).CH = s.CH := rfl
@[simp] theorem State.select_STEP (s : State) (c : Chan) :
    (s.select c).STEP = s.STEP := rfl
@[simp] theorem State.select_CYC (s : State) (c : Chan) :
    (s.select c).CYC = s.CYC := rfl
@[simp] theorem State.select_TRACE (s : State) (c : Chan) :
    (s.select c).TRACE = s.TRACE ++ [.drv (s.CFG.pattern c)] := rfl
@[simp] theorem State.select_OUT (s : State) (c : Chan) :
    (s.select c).OUT = s.OUT := rfl
@[simp] theorem State.select_EXIT (s : State) (c : Chan) :
    (s.select c).EXIT = s.EXIT := rfl
@[simp] theorem State.select_CFG (s : State) (c : Chan) :
    (s.select c).CFG = s.CFG := rfl
@[simp] theorem State.select_RET (s : State) (c : Chan) :
    (s.select c).RET = s.RET := rfl
@[simp] theorem State.select_ENV (s : State) (c : Chan) :
    (s.select c).ENV = s.ENV := rfl
@[simp] theorem State.select_REQS (s : State) (c : Chan) :
    (s.select c).REQS = s.REQS := rfl

@[simp] theorem State.deselect_A (s : State) :
    (s.deselect).A = s.CFG.IDLE_PATTERN := rfl
@[simp] theorem State.deselect_GPIO_DIR (s : State) :
    (s.deselect).GPIO_DIR = s.GPIO_DIR := rfl
@[simp] theorem State.deselect_TXBUF (s : State) :
    (s.deselect).TXBUF = s.TXBUF := rfl
@[simp] theorem State.deselect_RXBUF (s : State) :
    (s.deselect).RXBUF = s.RXBUF := rfl
@[simp] theorem State.deselect_CNT (s : State) :
    (s.deselect).CNT = s.CNT := rfl
@[simp] theorem State.deselect_LINK (s : State) :
    (s.deselect).LINK = s.LINK := rfl
@[simp] theorem State.deselect_RES (s : State) :
    (s.deselect).RES = s.RES := rfl
@[simp] theorem State.deselect_ENC (s : State) :
    (s.deselect).ENC = s.ENC := rfl
@[simp] theorem State.deselect_FAULT (s : State) :
    (s.deselect).FAULT = s.FAULT := rfl
@[simp] theorem State.deselect_HAZ (s : State) :
    (s.deselect).HAZ = s.HAZ := rfl
@[simp] theorem State.deselect_SENT (s : State) :
    (s.deselect).SENT = s.SENT := rfl
@[simp] theorem State.deselect_RCVD (s : State) :
    (s.deselect).RCVD = s.RCVD := rfl
@[simp] theorem State.deselect_SNAP_SENT (s : State) :
    (s.deselect).SNAP_SENT = s.SNAP_SENT := rfl
@[simp] theorem State.deselect_SNAP_RCVD (s : State) :
    (s.deselect).SNAP_RCVD = s.SNAP_RCVD := rfl
@[simp] theorem State.deselect_LAST_T (s : State) :
    (s.deselect).LAST_T = s.LAST_T := rfl
@[simp] theorem State.deselect_PHASE (s : State) :
    (s.deselect).PHASE = s.PHASE := rfl
@[simp] theorem State.deselect_CH (s : State) :
    (s.deselect).CH = s.CH := rfl
@[simp] theorem State.deselect_STEP (s : State) :
    (s.deselect).STEP = s.STEP := rfl
@[simp] theorem State.deselect_CYC (s : State) :
    (s.deselect).CYC = s.CYC := rfl
@[simp] theorem State.deselect_TRACE (s : State) :
    (s.deselect).TRACE = s.TRACE ++ [.drv s.CFG.IDLE_PATTERN] := rfl
@[simp] theorem State.deselect_OUT (s : State) :
    (s.deselect).OUT = s.OUT := rfl
@[simp] theorem State.deselect_EXIT (s : State) :
    (s.deselect).EXIT = s.EXIT := rfl
@[simp] theorem State.deselect_CFG (s : State) :
    (s.deselect).CFG = s.CFG := rfl
@[simp] theorem State.deselect_RET (s : State) :
    (s.deselect).RET = s.RET := rfl
@[simp] theorem State.deselect_ENV (s : State) :
    (s.deselect).ENV = s.ENV := rfl
@[simp] theorem State.deselect_REQS (s : State) :
    (s.deselect).REQS = s.REQS := rfl

end Sys2Proof.Machine
end

