-- ==== Sys2Proof/Laws/Operands.lean ====
section
/-! SUPPORT. The laws of channel ids, the select table and the well-formed configuration. -/

namespace Sys2Proof

@[simp] theorem Six.get_set_same {α : Type} (x : Six α) (c : Chan) (v : α) : (x.set c v).get c = v := by
  cases c <;> rfl

theorem Six.get_set_other {α : Type} (x : Six α) {c d : Chan} (v : α) (h : d ≠ c) : (x.set c v).get d = x.get d := by
  cases c <;> cases d <;> first | rfl | exact absurd rfl h

theorem Chan.mem_all (c : Chan) : c ∈ Chan.all := by cases c <;> decide

@[simp] theorem Chan.ofId_id (c : Chan) : Chan.ofId c.id = some c := by cases c <;> decide

theorem Chan.id_range (c : Chan) : 1 ≤ c.id ∧ c.id ≤ 6 := by cases c <;> decide

/-- The id of a channel determines it. -/
theorem Chan.ofId_eq_some {c : Int} {ch : Chan} : Chan.ofId c = some ch ↔ c = ch.id := by
  constructor
  · intro h
    have e := List.find?_some h
    exact (beq_iff_eq.mp e).symm
  · rintro rfl
    exact Chan.ofId_id ch

/-- An id names a channel exactly when it lies in 1..6 (41_channel_select.md R143). -/
theorem Chan.ofId_eq_none {c : Int} : Chan.ofId c = none ↔ ¬ (1 ≤ c ∧ c ≤ 6) := by
  simp only [Chan.ofId, Chan.all, Chan.id, List.find?_eq_none, List.mem_cons, List.not_mem_nil, or_false, beq_iff_eq]
  constructor
  · intro h hc
    have h1 := h .c1 (by simp)
    have h2 := h .c2 (by simp)
    have h3 := h .c3 (by simp)
    have h4 := h .c4 (by simp)
    have h5 := h .c5 (by simp)
    have h6 := h .c6 (by simp)
    simp only at h1 h2 h3 h4 h5 h6
    omega
  · rintro h x (rfl | rfl | rfl | rfl | rfl | rfl) <;> simp only <;> omega

theorem Chan.ofId_isSome {c : Int} : (Chan.ofId c).isSome = true ↔ 1 ≤ c ∧ c ≤ 6 := by
  rw [← not_iff_not, ← Chan.ofId_eq_none]
  simp

theorem Chan.exists_ofId {c : Int} (h : 1 ≤ c ∧ c ≤ 6) : ∃ ch, Chan.ofId c = some ch :=
  Option.isSome_iff_exists.mp (Chan.ofId_isSome.mpr h)

/-- The bits of the packed request (10_state.md R26). -/
theorem ModeFlags.word_getLsbD (f : ModeFlags) (bit : Nat) :
    f.word.getLsbD bit =
      [f.CPHA, f.CPOL, f.CS_HIGH, f.LSB_FIRST, f.THREE_WIRE, f.LOOP, f.NO_CS, f.READY, f.TX_DUAL, f.TX_QUAD, f.RX_DUAL,
        f.RX_QUAD, false, f.TX_OCTAL, f.RX_OCTAL].getD bit false := by
  rw [ModeFlags.word, BitVec.getLsbD_setWidth, BitVec.getLsbD_ofBoolListLE]
  by_cases h : bit < 32
  · simp [h]
  · rw [List.getD_eq_default]
    · simp
    · simp only [List.length_cons, List.length_nil]; omega

namespace Cfg

/-- The conditions of 00_scope.md R8 in mathematical terms. -/
theorem wf_iff (cfg : Cfg) :
    cfg.wf = true ↔
      (1 ≤ cfg.N ∧ cfg.N ≤ 6) ∧ 1 ≤ cfg.cycles ∧ 0 < cfg.INTERVAL_MS ∧ (Chan.all.map cfg.pattern).Nodup ∧
        (∀ c, cfg.pattern c ≠ cfg.IDLE_PATTERN) ∧ (cfg.IDLE_PATTERN = 0 ∨ cfg.IDLE_PATTERN = 7) := by
  have hidle : cfg.IDLE_PATTERN ∉ Chan.all.map cfg.pattern ↔ ∀ c, cfg.pattern c ≠ cfg.IDLE_PATTERN := by
    simp only [List.mem_map, not_exists, not_and]
    exact ⟨fun h c => h c (Chan.mem_all c), fun h c _ => h c⟩
  simp only [wf, conditions, List.all_cons, List.all_nil, Bool.and_true, Bool.and_eq_true, decide_eq_true_eq, hidle]

/-- No two channels share a pattern. -/
theorem pattern_inj {cfg : Cfg} (h : cfg.wf = true) {c d : Chan} (e : cfg.pattern c = cfg.pattern d) : c = d := by
  have hn := ((wf_iff cfg).mp h).2.2.2.1
  simp only [Chan.all, List.map_cons, List.map_nil, List.nodup_cons, List.mem_cons, List.not_mem_nil, or_false,
    not_or] at hn
  cases c <;> cases d <;> first | rfl | (exfalso; simp_all)

theorem pattern_ne_idle {cfg : Cfg} (h : cfg.wf = true) (c : Chan) : cfg.pattern c ≠ cfg.IDLE_PATTERN :=
  ((wf_iff cfg).mp h).2.2.2.2.1 c

/-- The channel selected is the one whose pattern is driven. -/
theorem channelOf_pattern {cfg : Cfg} (h : cfg.wf = true) (c : Chan) : cfg.channelOf (cfg.pattern c) = some c := by
  have hs : (cfg.channelOf (cfg.pattern c)).isSome := by
    simp only [channelOf, List.find?_isSome, beq_iff_eq]
    exact ⟨c, Chan.mem_all c, rfl⟩
  obtain ⟨d, hd⟩ := Option.isSome_iff_exists.mp hs
  have hp := List.find?_some hd
  rw [hd, pattern_inj h (beq_iff_eq.mp hp)]

/-- The idle pattern selects no channel. -/
theorem channelOf_idle {cfg : Cfg} (h : cfg.wf = true) : cfg.channelOf cfg.IDLE_PATTERN = none := by
  simp only [channelOf, List.find?_eq_none, beq_iff_eq]
  exact fun c _ => pattern_ne_idle h c

/-- What a selected channel says of the pattern. -/
theorem pattern_of_channelOf {cfg : Cfg} {p : Pattern} {c : Chan} (h : cfg.channelOf p = some c) : cfg.pattern c =
    p := by
  simpa using List.find?_some h

theorem channelOf_eq_none {cfg : Cfg} {p : Pattern} : cfg.channelOf p = none ↔ ∀ c, cfg.pattern c ≠ p := by
  simp only [channelOf, List.find?_eq_none, beq_iff_eq]
  exact ⟨fun h c => h c (Chan.mem_all c), fun h c _ => h c⟩

/-- The channels served are those with an id up to `N`. -/
theorem mem_channels {cfg : Cfg} {c : Chan} : c ∈ cfg.channels ↔ c.id ≤ cfg.N := by
  unfold channels Chan.all
  rcases cfg.N with _ | _ | _ | _ | _ | _ | n <;> cases c <;> simp [Chan.id]
  all_goals omega

end Cfg

end Sys2Proof
end

