-- ==== Sys2Proof/Laws/Ops.lean ====
section
/-! SUPPORT. What the shared operations can do, said once. -/

namespace Sys2Proof.Machine

/-! Refusals. -/

@[simp] theorem guarded_nil (t : State) : guarded [] t = .next t := rfl

@[simp] theorem guarded_cons_true (r : Refusal) (cs : List (Bool × Refusal)) (t : State) :
    guarded ((true, r) :: cs) t = .refused r := rfl

@[simp] theorem guarded_cons_false (r : Refusal) (cs : List (Bool × Refusal)) (t : State) :
    guarded ((false, r) :: cs) t = guarded cs t := rfl

/-- A guarded operation completes exactly when none of its refusal conditions holds. -/
theorem guarded_eq_next {cs : List (Bool × Refusal)} {t u : State} :
    guarded cs t = .next u ↔ (∀ c ∈ cs, c.1 = false) ∧ u = t := by
  induction cs with
  | nil => simpa using ⟨Eq.symm, Eq.symm⟩
  | cons c cs ih =>
    obtain ⟨b, r⟩ := c
    cases b <;> simp [ih]

theorem guarded_ne_fault {cs : List (Bool × Refusal)} {t : State} {f : Fault} : guarded cs t ≠ .fault f := by
  induction cs with
  | nil => simp
  | cons c cs ih =>
    obtain ⟨b, r⟩ := c
    cases b <;> simp [ih]

/-! Outcomes. -/

@[simp] theorem Result.ok_andThen {α β : Type} (v : α) (s : State) (f : α → State → Result β) :
    (Result.ok v s).andThen f = f v s := rfl

@[simp] theorem Result.error_andThen {α β : Type} (k : ErrKind) (i : ErrInfo) (s : State) (f : α → State → Result β) :
    (Result.error k i s : Result α).andThen f = .error k i s := rfl

@[simp] theorem Result.ok_settle {α : Type} (v : α) (s : State) (ret : α → Returned) :
    (Result.ok v s).settle ret = { s with RET := ret v } := rfl

@[simp] theorem Result.error_settle {α : Type} (k : ErrKind) (i : ErrInfo) (s : State) (ret : α → Returned) :
    (Result.error k i s : Result α).settle ret = s.takeError k i := rfl

/-- A harness sees an error as a returned value (60_exceptions.md R228). -/
theorem State.takeError_of_harness {s : State} (h : s.sequenced = false) (k : ErrKind) (i : ErrInfo) :
    s.takeError k i = { s with RET := .error k i } := by
  simp only [State.takeError]
  exact if_neg (by simpa using h)

/-- The sequencer halts on an error (60_exceptions.md R224). -/
theorem State.takeError_of_sequencer {s : State} (h : s.sequenced = true) (k : ErrKind) (i : ErrInfo) :
    s.takeError k i = ({ s with RET := .error k i } : State).halt k i := by
  simp only [State.takeError]
  exact if_pos h

theorem State.sequenced_iff {s : State} : s.sequenced = true ↔ s.REQS = [] := by
  simp [State.sequenced]

/-! The environment. -/

@[simp] theorem Environment.receive_length (n : Nat) (e : Environment) : (e.receive n).1.length = n := by
  induction n generalizing e with
  | zero => rfl
  | succ n ih => simp [Environment.receive, ih]

/-- Prepared bytes are received first, in their order. -/
theorem Environment.receive_prepared (bs rest : List Byte) (e : Environment) :
    ({ e with bytes := bs ++ rest } : Environment).receive bs.length = (bs, { e with bytes := rest }) := by
  induction bs with
  | nil => rfl
  | cons b bs ih => simp [Environment.receive, Environment.byte, ih]

/-! The flags of a packed request (10_state.md R26). -/

@[simp] theorem modeCPHA_word (f : ModeFlags) : modeCPHA f.word = f.CPHA := f.word_getLsbD 0
@[simp] theorem modeCPOL_word (f : ModeFlags) : modeCPOL f.word = f.CPOL := f.word_getLsbD 1
@[simp] theorem modeCS_HIGH_word (f : ModeFlags) : modeCS_HIGH f.word = f.CS_HIGH := f.word_getLsbD 2
@[simp] theorem modeLSB_FIRST_word (f : ModeFlags) : modeLSB_FIRST f.word = f.LSB_FIRST := f.word_getLsbD 3
@[simp] theorem modeTHREE_WIRE_word (f : ModeFlags) : modeTHREE_WIRE f.word = f.THREE_WIRE := f.word_getLsbD 4
@[simp] theorem modeLOOP_word (f : ModeFlags) : modeLOOP f.word = f.LOOP := f.word_getLsbD 5
@[simp] theorem modeNO_CS_word (f : ModeFlags) : modeNO_CS f.word = f.NO_CS := f.word_getLsbD 6
@[simp] theorem modeREADY_word (f : ModeFlags) : modeREADY f.word = f.READY := f.word_getLsbD 7
@[simp] theorem modeTX_DUAL_word (f : ModeFlags) : modeTX_DUAL f.word = f.TX_DUAL := f.word_getLsbD 8
@[simp] theorem modeTX_QUAD_word (f : ModeFlags) : modeTX_QUAD f.word = f.TX_QUAD := f.word_getLsbD 9
@[simp] theorem modeRX_DUAL_word (f : ModeFlags) : modeRX_DUAL f.word = f.RX_DUAL := f.word_getLsbD 10
@[simp] theorem modeRX_QUAD_word (f : ModeFlags) : modeRX_QUAD f.word = f.RX_QUAD := f.word_getLsbD 11
@[simp] theorem modeTX_OCTAL_word (f : ModeFlags) : modeTX_OCTAL f.word = f.TX_OCTAL := f.word_getLsbD 13
@[simp] theorem modeRX_OCTAL_word (f : ModeFlags) : modeRX_OCTAL f.word = f.RX_OCTAL := f.word_getLsbD 14

/-! Buffers and the comparison. -/

/-- The predicates that read the effective mode. -/
theorem State.present_of_admitted {s : State} (h : s.admitted = true) (tx : List Byte) :
    s.present tx = (some tx, true) := by
  unfold State.admitted at h
  unfold State.present
  cases hl : s.loopback <;> cases ht : s.txMulti <;> cases hr : s.rxMulti <;> simp_all

@[simp] theorem diffsFrom_self (i : Nat) (bs : List Byte) : diffsFrom i bs bs = [] := by
  induction bs generalizing i with
  | nil => rfl
  | cons b bs ih => simp [diffsFrom, ih]

/-- Sequences of one length have no difference exactly when they are equal. -/
theorem diffsFrom_eq_nil {i : Nat} {ts rs : List Byte} (h : ts.length = rs.length) : diffsFrom i ts rs = [] ↔ ts =
    rs := by
  induction ts generalizing i rs with
  | nil =>
    have : rs = [] := List.length_eq_zero_iff.mp h.symm
    simp [this, diffsFrom]
  | cons t ts ih =>
    cases rs with
    | nil => simp at h
    | cons r rs =>
      have h' : ts.length = rs.length := by simpa using h
      by_cases e : t = r <;> simp [diffsFrom, e, ih h']

/-- The three ways a loopback comparison ends (40_transport.md R128, 60_exceptions.md R227). -/
theorem verifyLoop_cases {α : Type} (tx rx : Option (List Byte)) (v : α) (s : State) :
    ((s.loopback = false ∨ loopDiffs tx rx = []) ∧ verifyLoop tx rx v s = .ok v s) ∨
    (s.loopback = true ∧ loopDiffs tx rx ≠ [] ∧ s.sequenced = true ∧ s.CFG.INTEGRITY_CONTINUE = true ∧
      verifyLoop tx rx v s = .ok v (s.emit (.integrity (.loopbackMismatch (loopDiffs tx rx))))) ∨
    (s.loopback = true ∧ loopDiffs tx rx ≠ [] ∧ ¬ (s.sequenced = true ∧ s.CFG.INTEGRITY_CONTINUE = true) ∧
      verifyLoop tx rx v s = .error .integrityError (.loopbackMismatch (loopDiffs tx rx)) s) := by
  cases hl : s.loopback with
  | false => exact .inl ⟨.inl rfl, by simp [verifyLoop, hl]⟩
  | true =>
    cases hd : loopDiffs tx rx with
    | nil => exact .inl ⟨.inr rfl, by simp [verifyLoop, hl, hd]⟩
    | cons d ds =>
      by_cases hc : s.sequenced = true ∧ s.CFG.INTEGRITY_CONTINUE = true
      · exact .inr (.inl ⟨rfl, by simp, hc.1, hc.2, by simp [verifyLoop, hl, hd, integrityOr, hc.1, hc.2]⟩)
      · refine .inr (.inr ⟨rfl, by simp, hc, ?_⟩)
        have : (s.sequenced && s.CFG.INTEGRITY_CONTINUE) = false := by
          simpa [Bool.and_eq_true] using hc
        simp [verifyLoop, hl, hd, integrityOr, this]

/-- The state an exchange leaves when its transfer is done (40_transport.md R125), before the comparison. -/
def State.afterTransfer (s : State) (tx : List Byte) (e : Environment) : State :=
  { s with
    ENV := (e.receive tx.length).2
    TXBUF := none
    RXBUF := none
    SENT := s.SENT + tx.length
    RCVD := s.RCVD + tx.length
    TRACE := s.TRACE ++ [.xfr s.A (s.present tx).1 (if (s.present tx).2 then some (e.receive tx.length).1 else none)] }

/-- The bytes an exchange returns. -/
def State.received (s : State) (tx : List Byte) (e : Environment) : Option (List Byte) :=
  if (s.present tx).2 then some (e.receive tx.length).1 else none

theorem exchange_done {s : State} {tx : List Byte} {e : Environment} (h : s.ENV.transfer = (.done, e)) :
    exchange tx s = verifyLoop (some tx) (s.received tx e) (s.received tx e) (s.afterTransfer tx e) := by
  have h' : (s.allocate (s.present tx).1 (s.present tx).2 tx.length).ENV.transfer = (.done, e) := h
  simp only [exchange, h']
  rfl

theorem exchange_short {s : State} {tx : List Byte} {e : Environment} (h : s.ENV.transfer = (.short, e)) :
    exchange tx s = .error .ioError (.transferShort tx.length) { s with ENV := e, TXBUF := none, RXBUF := none } := by
  have h' : (s.allocate (s.present tx).1 (s.present tx).2 tx.length).ENV.transfer = (.short, e) := h
  simp only [exchange, h']
  rfl

theorem exchange_deviceError {s : State} {tx : List Byte} {e : Environment}
    (h : s.ENV.transfer = (.deviceError, e)) :
    exchange tx s = .error .ioError (.transferDevice tx.length) { s with ENV := e, TXBUF := none, RXBUF := none } := by
  have h' : (s.allocate (s.present tx).1 (s.present tx).2 tx.length).ENV.transfer = (.deviceError, e) := h
  simp only [exchange, h']
  rfl

/-- Everything an exchange can do: with `e` the environment after the transfer's answer, it fails and changes nothing
else; or it is done and compared, and then ends with or without an integrity error. -/
theorem exchange_cases (tx : List Byte) (s : State) :
    (∃ e i, (i = .transferShort tx.length ∨ i = .transferDevice tx.length) ∧
      exchange tx s = .error .ioError i { s with ENV := e, TXBUF := none, RXBUF := none }) ∨
    (∃ e, exchange tx s = .ok (s.received tx e) (s.afterTransfer tx e)) ∨
    (∃ e ds, s.sequenced = true ∧ s.CFG.INTEGRITY_CONTINUE = true ∧
      exchange tx s = .ok (s.received tx e) ((s.afterTransfer tx e).emit (.integrity (.loopbackMismatch ds)))) ∨
    (∃ e ds, exchange tx s = .error .integrityError (.loopbackMismatch ds) (s.afterTransfer tx e)) := by
  rcases h : s.ENV.transfer with ⟨a, e⟩
  cases a with
  | short => exact .inl ⟨e, _, .inl rfl, exchange_short h⟩
  | deviceError => exact .inl ⟨e, _, .inr rfl, exchange_deviceError h⟩
  | done =>
    rw [exchange_done h]
    rcases verifyLoop_cases (some tx) (s.received tx e) (s.received tx e) (s.afterTransfer tx e) with
      ⟨-, h'⟩ | ⟨-, -, hs, hc, h'⟩ | ⟨-, -, -, h'⟩
    · exact .inr (.inl ⟨e, h'⟩)
    · exact .inr (.inr (.inl ⟨e, _, hs, hc, h'⟩))
    · exact .inr (.inr (.inr ⟨e, _, h'⟩))

end Sys2Proof.Machine
end

