-- ==== Sys2Proof/Laws/Decode.lean ====
section
/-! SUPPORT. The fields of a micro-word and the words of literal ids. -/

namespace Sys2Proof

@[simp] theorem opOf_microWord (op arg : Nibble) : opOf (microWord op arg) = op := by
  revert op arg
  decide

@[simp] theorem argOf_microWord (op arg : Nibble) : argOf (microWord op arg) = arg := by
  revert op arg
  decide

@[simp] theorem microWord_fields (w : Byte) : microWord (opOf w) (argOf w) = w := by
  revert w
  decide

/-- A micro-word decodes by its two fields. -/
theorem decode_microWord (op arg : Nibble) (rest : List Byte) :
    decode (microWord op arg :: rest) = decodeFields op arg rest := by
  simp [decode]

/-- The value of a literal id in its field. -/
theorem toNat_idField {c : Int} (h : 0 ≤ c ∧ c ≤ 15) : ((BitVec.ofInt 4 c).toNat : Int) = c := by
  simp only [BitVec.toNat_ofInt]
  omega

/-- The value of a number in its field. -/
theorem toNat_field {n : Nat} (h : n ≤ 15) : (BitVec.ofNat 4 n).toNat = n := by
  simp only [BitVec.toNat_ofNat]
  omega

@[simp] theorem Cmd.ofIndex_index (k : Cmd) : Cmd.ofIndex k.index = some k := by cases k <;> rfl

theorem Cmd.index_le (k : Cmd) : k.index ≤ 3 := by cases k <;> decide

/-- The index of the command that a number names. -/
theorem Cmd.index_of_ofIndex {n : Nat} {k : Cmd} (h : Cmd.ofIndex n = some k) : k.index = n := by
  rcases n with _ | _ | _ | _ | n <;> simp only [Cmd.ofIndex, Option.some.injEq, reduceCtorEq] at h <;> subst h <;> rfl

end Sys2Proof
end

