-- ==== Sys2Proof/Laws/Fraction.lean ====
section
/-! SUPPORT. The laws of quotients and of their rounding to binary64 (42_encoder_commands.md R167; log 8). -/

namespace Sys2Proof

/-- The quotient by a positive number: value and lowest terms. -/
theorem Ratio.of_spec (a b : Int) (hb : 0 < b) : 0 < (Ratio.of a b).den ∧ (Ratio.of a b).num * b = a *
    (Ratio.of a b).den ∧ Nat.Coprime (Ratio.of a b).num.natAbs (Ratio.of a b).den := by
  simp only [Ratio.of, if_neg (show ¬ b < 0 by omega)]
  obtain ⟨n, rfl⟩ : ∃ n : Nat, b = n := ⟨b.toNat, by omega⟩
  simp only [Int.natAbs_natCast]
  have hn : 0 < n := by omega
  generalize hG : Nat.gcd a.natAbs n = g
  have hg : 0 < g := hG ▸ Nat.gcd_pos_of_pos_right _ hn
  have d1 : (g : Int) ∣ a := hG ▸ Int.natCast_dvd.mpr (Nat.gcd_dvd_left _ _)
  have d2 : g ∣ n := hG ▸ Nat.gcd_dvd_right _ _
  obtain ⟨x, hx⟩ := d1
  obtain ⟨y, hy⟩ := d2
  have e1 : a / (g : Int) = x := by
    rw [hx, Int.mul_ediv_cancel_left]; omega
  have e2 : n / g = y := by
    rw [hy, Nat.mul_div_cancel_left _ hg]
  refine ⟨?_, ?_, ?_⟩
  · rw [e2]; rcases Nat.eq_zero_or_pos y with h | h
    · subst h; omega
    · exact h
  · rw [e1, e2, hx, hy]; push_cast; ring
  · rw [e1, e2]
    have := Nat.coprime_div_gcd_div_gcd (m := a.natAbs) (n := n) (by rw [hG]; exact hg)
    rw [hG, e2] at this
    have e3 : a.natAbs / g = x.natAbs := by
      rw [hx, Int.natAbs_mul, Int.natAbs_natCast, Nat.mul_div_cancel_left _ hg]
    rwa [e3] at this

/-- The places of an irrational scale begin with its leading one. -/
theorem scalePrefix_bounds (which k : Nat) : 2 ^ k ≤ scalePrefix which k ∧ scalePrefix which k < 2 ^ (k + 1) := by
  induction k with
  | zero => simp [scalePrefix]
  | succ k ih =>
    have := Bool.toNat_lt (Config.scaleBit which k)
    simp only [scalePrefix, Nat.pow_succ] at *
    omega

/-! The unit of an angle. -/

@[simp] theorem Scale.angle_rational (q : PosRatio) (r : Ratio) : (Scale.rational q).angle r = .rational r := rfl

@[simp] theorem Scale.times_irrational (e : Int) (which n : Nat) : (Scale.irrational e which).times n = ⟨n, 1⟩ := rfl

/-- Rounding to a natural number keeps the order. -/
theorem divNearestEven_mono {a b d : Nat} (h : a ≤ b) : divNearestEven a d ≤ divNearestEven b d := by
  have hq : a / d ≤ b / d := Nat.div_le_div_right h
  have ha := Nat.div_add_mod a d
  have hb := Nat.div_add_mod b d
  unfold divNearestEven
  rcases Nat.lt_or_eq_of_le hq with hlt | heq
  · dsimp only; split <;> split <;> omega
  · rw [heq] at ha ⊢
    dsimp only; split <;> split <;> omega

/-- A quotient below a natural number is rounded to at most that number. -/
theorem divNearestEven_le {a d k : Nat} (h : a < k * d) : divNearestEven a d ≤ k := by
  have := Nat.div_lt_of_lt_mul (by rwa [Nat.mul_comm] at h : a < d * k)
  unfold divNearestEven
  dsimp only; split <;> omega

/-- A quotient is not rounded below a natural number it reaches. -/
theorem le_divNearestEven {a d k : Nat} (hd : 0 < d) (h : k * d ≤ a) : k ≤ divNearestEven a d := by
  have := (Nat.le_div_iff_mul_le hd).mpr h
  unfold divNearestEven
  dsimp only; split <;> omega

/-- The two halves of a power of two with an integer exponent. -/
theorem two_zpow_toNat (e : Int) : (2 : ℚ) ^ (-e).toNat = 2 ^ e.toNat * 2 ^ (-e) := by
  rw [← zpow_natCast, ← zpow_natCast, ← zpow_add₀ (by norm_num)]
  congr 1; omega

/-- A comparison of the scaled numerator and denominator is one of the quotient. -/
theorem scaled_lt_iff {num den k : Nat} (e : Int) (hd : 0 < den) :
    num * 2 ^ (-e).toNat < k * (den * 2 ^ e.toNat) ↔ (num : ℚ) / den < k * 2 ^ e := by
  have hd : (0 : ℚ) < den := by exact_mod_cast hd
  have h1 : (0 : ℚ) < 2 ^ e.toNat := by positivity
  have h2 : (0 : ℚ) < 2 ^ (-e) := by positivity
  have h3 : (2 : ℚ) ^ e * 2 ^ (-e) = 1 := by rw [← zpow_add₀ (by norm_num)]; simp
  rw [div_lt_iff₀ hd, ← Nat.cast_lt (α := ℚ)]
  push_cast
  rw [two_zpow_toNat]
  constructor <;> intro h
  · apply lt_of_mul_lt_mul_right (a := (2 : ℚ) ^ e.toNat * 2 ^ (-e)) _ (by positivity)
    calc _ < _ := h
      _ = _ := by linear_combination (-(k : ℚ) * den * 2 ^ e.toNat) * h3
  · have := mul_lt_mul_of_pos_right h (mul_pos h1 h2)
    calc _ < _ := this
      _ = _ := by linear_combination ((k : ℚ) * den * 2 ^ e.toNat) * h3

/-- The leading exponent is the one of the power of two just below the quotient. -/
theorem leadingExponent_spec {num den : Nat} (hn : 0 < num) (hd : 0 < den) :
    (2 : ℚ) ^ leadingExponent num den ≤ (num : ℚ) / den ∧
      (num : ℚ) / den < 2 ^ (leadingExponent num den + 1) := by
  have hd' : (0 : ℚ) < den := by exact_mod_cast hd
  have n1 : (2 : ℚ) ^ (Nat.log2 num : Int) ≤ num := by exact_mod_cast Nat.log2_self_le (by omega)
  have n2 : (num : ℚ) < 2 ^ ((Nat.log2 num : Int) + 1) := by exact_mod_cast Nat.lt_log2_self
  have d1 : (2 : ℚ) ^ (Nat.log2 den : Int) ≤ den := by exact_mod_cast Nat.log2_self_le (by omega)
  have d2 : (den : ℚ) < 2 ^ ((Nat.log2 den : Int) + 1) := by exact_mod_cast Nat.lt_log2_self
  generalize ha : (Nat.log2 num : Int) = a at n1 n2
  generalize hb : (Nat.log2 den : Int) = b at d1 d2
  have hup : (num : ℚ) / den < 2 ^ (a - b + 1) := by
    rw [div_lt_iff₀ hd']
    calc (num : ℚ) < 2 ^ (a + 1) := n2
      _ = 2 ^ (a - b + 1) * 2 ^ b := by rw [← zpow_add₀ (by norm_num)]; congr 1; ring
      _ ≤ _ := by gcongr
  have hlo : (2 : ℚ) ^ (a - b - 1) ≤ (num : ℚ) / den := by
    rw [le_div_iff₀ hd']
    calc (2 : ℚ) ^ (a - b - 1) * den ≤ 2 ^ (a - b - 1) * 2 ^ (b + 1) := by gcongr
      _ = 2 ^ a := by rw [← zpow_add₀ (by norm_num)]; congr 1; ring
      _ ≤ _ := n1
  have hc := scaled_lt_iff (num := num) (k := 1) (a - b) hd
  have hs : ∀ e : Int, (if e < 0 then num * 2 ^ (-e).toNat else num) = num * 2 ^ (-e).toNat ∧
      (if e < 0 then den else den * 2 ^ e.toNat) = den * 2 ^ e.toNat := by
    intro e
    by_cases h : e < 0
    · simp [h, show e.toNat = 0 by omega]
    · simp [h, show (-e).toNat = 0 by omega]
  have hl : leadingExponent num den = if (num : ℚ) / den < 2 ^ (a - b) then a - b - 1 else a - b := by
    unfold leadingExponent
    dsimp only
    rw [ha, hb, (hs _).1, (hs _).2]
    simp only [Nat.cast_one, one_mul] at hc
    simp only [hc]
  rw [hl]
  split
  · rename_i h; exact ⟨hlo, by rwa [sub_add_cancel]⟩
  · rename_i h; exact ⟨not_lt.mp h, hup⟩

/-- A greater numerator has no lesser leading exponent. -/
theorem leadingExponent_mono {a b d : Nat} (ha : 0 < a) (hd : 0 < d) (h : a ≤ b) :
    leadingExponent a d ≤ leadingExponent b d := by
  have h1 := (leadingExponent_spec ha hd).1
  have h2 := (leadingExponent_spec (Nat.lt_of_lt_of_le ha h) hd).2
  have h3 : (a : ℚ) / d ≤ (b : ℚ) / d := by gcongr
  have := (zpow_lt_zpow_iff_right₀ (by norm_num : (1 : ℚ) < 2)).mp (h1.trans_lt (h3.trans_lt h2))
  omega

/-- Rounding to binary64 keeps the order (42_encoder_commands.md R167, law 4). -/
theorem nearestF64_mono {a b d : Nat} (hd : 0 < d) (h : a ≤ b) : nearestF64 a d ≤ nearestF64 b d := by
  unfold nearestF64
  by_cases ha : a = 0
  · simp [ha]
  have hb : b ≠ 0 := by omega
  rw [if_neg ha, if_neg hb]
  dsimp only
  apply min_le_min_right
  have hL := leadingExponent_mono (Nat.pos_of_ne_zero ha) hd h
  have h1 : lastPlace a d ≤ lastPlace b d := by unfold lastPlace; omega
  have h0 : -1074 ≤ lastPlace a d := by unfold lastPlace; omega
  rcases eq_or_lt_of_le h1 with he | hlt
  · rw [he]
    exact Nat.add_le_add_left (divNearestEven_mono (Nat.mul_le_mul_right _ h)) _
  · have ub : divNearestEven (a * 2 ^ (-lastPlace a d).toNat) (d * 2 ^ (lastPlace a d).toNat) ≤ 2 ^ 53 := by
      apply divNearestEven_le
      rw [scaled_lt_iff _ hd]
      refine (leadingExponent_spec (Nat.pos_of_ne_zero ha) hd).2.trans_le ?_
      rw [Nat.cast_pow, Nat.cast_ofNat, ← zpow_natCast, ← zpow_add₀ (by norm_num)]
      exact zpow_le_zpow_right₀ (by norm_num) (by unfold lastPlace; push_cast; omega)
    have lb : 2 ^ 52 ≤ divNearestEven (b * 2 ^ (-lastPlace b d).toNat) (d * 2 ^ (lastPlace b d).toNat) := by
      apply le_divNearestEven (by positivity)
      by_contra hc
      have hc := (scaled_lt_iff _ hd).mp (not_le.mp hc)
      have hs := (leadingExponent_spec (Nat.pos_of_ne_zero hb) hd).1
      refine absurd (hs.trans_lt hc) (not_lt.mpr ?_)
      rw [Nat.cast_pow, Nat.cast_ofNat, ← zpow_natCast, ← zpow_add₀ (by norm_num)]
      refine zpow_le_zpow_right₀ (by norm_num) ?_
      have : lastPlace b d = leadingExponent b d - 52 := by
        unfold lastPlace at hlt h0 ⊢; omega
      rw [this]; push_cast; omega
    have e : (lastPlace a d + 1074).toNat + 1 ≤ (lastPlace b d + 1074).toNat := by omega
    have := Nat.mul_le_mul_right (2 ^ 52) e
    omega

end Sys2Proof
end

