-- ==== Sys2Proof/Laws/Effects.lean ====
section
/-! SUPPORT. What the shared operations do when the environment answers in a given way,
    and the checks as propositions. -/

namespace Sys2Proof.Machine

/-- The machine is live exactly outside the terminal phases. -/
theorem live_iff_not_terminal {s : State} : s.live ↔ s.PHASE.terminal = false := by
  unfold State.live; cases s.PHASE <;> simp [Phase.terminal]

/-- A successful transfer is an answer `done` followed by its received bytes. -/
theorem moves_split {e e' : Environment} {n rx} (h : e.moves n rx e') : ∃ e1, e.transfer = (.done, e1)
    ∧ e1.receive n = (rx, e') := by
  exact ⟨_, Prod.ext h.1 rfl, h.2⟩

/-- A successful transfer receives as many bytes as it was asked for. -/
theorem moves_length {e e' : Environment} {n rx} (h : e.moves n rx e') : rx.length = n := by
  obtain ⟨e1, -, h2⟩ := moves_split h
  have := Environment.receive_length n e1
  rw [h2] at this; exact this

/-- With loopback effective both buffers are present. -/
@[simp] theorem loopDiffs_some (tx rx : List Byte) : loopDiffs (some tx) (some rx) = diffsFrom 0 tx rx := rfl

theorem present_loopback {s : State} (h : s.loopback = true) (tx) : s.present tx = (some tx, true) := by
  simp [State.present, h]

/-- An exchange that succeeds and needs no report. -/
theorem exchange_of_moves {s : State} {tx rx : List Byte} {e : Environment}
    (h : s.ENV.moves tx.length rx e) (hl : s.loopback = true → rx = tx) :
    exchange tx s = .ok (if (s.present tx).2 then some rx else none)
      { s with
        TXBUF := none, RXBUF := none, SENT := s.SENT + tx.length, RCVD := s.RCVD + tx.length,
        TRACE := s.TRACE ++ [.xfr s.A (s.present tx).1 (if (s.present tx).2 then some rx else none)], ENV := e } := by
  obtain ⟨e1, h1, h2⟩ := moves_split h
  rw [exchange_done h1]
  simp only [State.received, State.afterTransfer, h2]
  rcases hb : s.loopback with _ | _
  · simp only [verifyLoop]
    exact if_neg (by rw [Bool.not_eq_true]; exact hb)
  · have := hl hb; subst this
    rw [present_loopback hb]
    simp [verifyLoop]

/-- A loopback exchange that succeeds with different bytes: it is recorded, then compared. -/
theorem exchange_of_mismatch {s : State} {tx rx : List Byte} {e : Environment}
    (h : s.ENV.moves tx.length rx e) (hl : s.loopback = true) (hne : rx ≠ tx) :
    exchange tx s = integrityOr (diffsFrom 0 tx rx) (some rx)
      { s with
        TXBUF := none, RXBUF := none, SENT := s.SENT + tx.length, RCVD := s.RCVD + tx.length,
        TRACE := s.TRACE ++ [.xfr s.A (some tx) (some rx)], ENV := e } := by
  obtain ⟨e1, h1, h2⟩ := moves_split h
  have hd : diffsFrom 0 tx rx ≠ [] := by
    rw [ne_eq, diffsFrom_eq_nil (moves_length h).symm]; exact fun h => hne h.symm
  rw [exchange_done h1]
  simp only [State.received, State.afterTransfer, h2, present_loopback hl, verifyLoop, if_true]
  refine (if_pos (show s.loopback = true from hl)).trans ?_
  rw [loopDiffs_some]
  rcases hdd : diffsFrom 0 tx rx with _ | ⟨d, ds⟩
  · contradiction
  · rfl

/-- An exchange whose transfer fails. -/
theorem exchange_of_failure {s : State} {tx : List Byte} {a e} (h : s.ENV.transfer = (a, e)) (ha : a ≠ .done) :
   exchange tx s = .error .ioError (transferError a tx.length)
     { s with TXBUF := none, RXBUF := none, ENV := e } := by
  cases a
  · contradiction
  · rw [exchange_short h]; rfl
  · rw [exchange_deviceError h]; rfl

/-- A mismatch that is not continued is an error. -/
theorem integrityOr_error {α} {s : State} (h : s.REQS ≠ [] ∨ s.CFG.INTEGRITY_CONTINUE = false) (ds) (v : α) :
   integrityOr ds v s = .error .integrityError (.loopbackMismatch ds) s := by
  have : (s.sequenced && s.CFG.INTEGRITY_CONTINUE) = false := by
    rcases h with h | h
    · simp [State.sequenced, h]
    · simp [h]
  simp [integrityOr, this]

/-- A loopback link is admitted. -/
theorem admitted_of_loopback {s : State} (h : s.loopback = true) : s.admitted = true := by simp [State.admitted, h]

/-- The latestExchange_of_split exchange of a history that is split at it. -/
theorem latestExchange_of_split {s : State} {before after : List BusEvent} {a tx rx} (h : s.TRACE =
    before ++ .xfr a tx rx :: after) (ha : ∀ a' tx' rx', .xfr a' tx' rx' ∉ after) :
   s.latestExchange = some (tx, rx) := by
  unfold State.latestExchange
  rw [h]
  simp only [List.reverse_append, List.reverse_cons, List.append_assoc, List.findSome?_append]
  rw [List.findSome?_eq_none_iff.mpr]
  · rfl
  · intro e he
    cases e with
    | xfr a t r => exact absurd (by simpa using he) (ha a t r)
    | _ => rfl

/-- The check of the bracketing duty, as a proposition. -/
theorem otherSelected_iff {s : State} {c : Chan} : s.otherSelected c = true ↔ s.holdsOther c := by
  simp only [State.otherSelected, State.holdsOther, List.any_eq_true, Bool.and_eq_true, bne_iff_ne, beq_iff_eq]
  exact ⟨fun ⟨d, _, h⟩ => ⟨d, h⟩, fun ⟨d, h⟩ => ⟨d, Chan.mem_all d, h⟩⟩

/-- A hazard flag described by a disjunction is the Boolean disjunction. -/
theorem hazard_eq_or {haz b : Bool} {P : Prop} {h0 : Bool} (h : haz = true ↔ h0 = true ∨ P) (hb : b = true ↔ P)
    : haz = (h0 || b) := by
  rw [Bool.eq_iff_iff, h, Bool.or_eq_true, hb]

/-- `SEL` of a channel. -/
theorem exec_sel {s : State} {c : Chan} (hl : s.live) (hg : s.GPIO_DIR = .outputs) : exec (.sel c.id) s = .next
    { s.select c with RET := .ok } := by
  refine guarded_eq_next.mpr ⟨by simp [State.inTerminal, live_iff_not_terminal.mp hl, ifValid, State.linesUnset, hg],
      ?_⟩
  simp [selEffect]

/-- Driving a channel, with the hazard flag described as a proposition. -/
theorem select_eq {s : State} {c : Chan} {haz} (h : haz = true ↔ s.HAZ = true ∨ s.holdsOther c) :
   s.select c = { s with A := s.CFG.SEL_TABLE.get c, HAZ := haz, TRACE := s.TRACE ++ [.drv
       (s.CFG.SEL_TABLE.get c)] } := by
  rw [hazard_eq_or h otherSelected_iff]; rfl

/-- An invalid id names no channel. -/
theorem invalid_none {c : Int} (h : ¬ validId c) : Chan.ofId c = none := Chan.ofId_eq_none.mpr h

/-- `DESEL` on output lines. -/
theorem exec_desel {s : State} (hl : s.live) (hg : s.GPIO_DIR = .outputs) : exec .desel s = .next
    { s.deselect with RET := .ok } := 
  guarded_eq_next.mpr ⟨by simp [State.inTerminal, live_iff_not_terminal.mp hl, State.linesUnset, hg], rfl⟩

/-- A command whose transfer succeeds. -/
theorem xcmdEffect_of_moves {s : State} {k : Cmd} {rx e} {haz : Bool}
    (ha : s.admitted = true) (hm : s.ENV.moves 1 rx e) (hlb : s.loopback = true → rx = [s.CFG.cmdByte k])
    (hh : haz = (s.HAZ || s.commandBreach k)) :
    xcmdEffect k s = .ok () (
      let t : State := { s with
        TXBUF := none, RXBUF := none, HAZ := haz, SENT := s.SENT + 1, RCVD := s.RCVD + 1,
        TRACE := s.TRACE ++ [.xfr s.A (some [s.CFG.cmdByte k]) (some rx)], ENV := e }
      if k = .setSec then t.noteProgrammed else t) := by
  have x := @exchange_of_moves (s.noteBreach (s.commandBreach k)) [s.CFG.cmdByte k] rx e hm hlb
  have hp : (s.noteBreach (s.commandBreach k)).present [s.CFG.cmdByte k] = (some [s.CFG.cmdByte k], true)
      := State.present_of_admitted ha _
  rw [hp] at x
  subst hh
  simp only [xcmdEffect, memWrite, x]; rfl

/-- The duties of a command, as a proposition. -/
theorem commandBreach_iff {s : State} {k : Cmd} (hw : s.CFG.wf = true) : s.commandBreach k = true ↔
    ¬ s.commandDuty k := by
  unfold State.commandBreach State.commandDuty
  cases hc : s.CFG.channelOf s.A with
  | none =>
    have := Cfg.channelOf_eq_none.mp hc
    simp only [true_iff]
    rintro ⟨c, h, -⟩
    exact this c h.symm
  | some c =>
    have hp := Cfg.pattern_of_channelOf hc
    have key : ∀ P : Chan → Prop, (∃ d, s.A = s.CFG.pattern d ∧ P d) ↔ P c := by
      intro P
      constructor
      · rintro ⟨d, h1, h2⟩
        rw [Cfg.pattern_inj hw (hp.trans h1)]; exact h2
      · intro h; exact ⟨c, hp.symm, h⟩
    rw [key]
    cases k with
    | selCtrl => simp
    | setQuad => simp [lastSentIs, State.lastSent]
    | setSec => simp [lastSentIs, State.lastSent]
    | readPos => cases h : s.ENC.get c <;> simp [h]

/-- Six entries are equal when they are equal channel by channel. -/
theorem Six.ext_get {α} {x y : Six α} (h : ∀ c, x.get c = y.get c) : x = y := by
  obtain ⟨a,b,c,d,e,f⟩ := x; obtain ⟨a',b',c',d',e',f'⟩ := y
  have h1 := h .c1; have h2 := h .c2; have h3 := h .c3; have h4 := h .c4; have h5 := h .c5; have h6 := h .c6
  simp [Six.get] at *; simp [*]

/-- A register state is known by whether it is configured. -/
theorem EncState.ext_configured {x : EncState} {y : EncState} (h : x = .configured ↔ y = .configured) : x = y := by
  cases x <;> cases y <;> simp_all

/-- The programming sequence is complete when the two exchanges before its last one are right. -/
theorem programmedAt_append {cfg : Cfg} {p : Pattern} {trace : List BusEvent} {rx} :
    programmedAt cfg p (trace ++ [.xfr p (some [cfg.CMD_SET_SEC]) rx]) = true ↔
      (sentAt p trace).reverse.take 2 = [some [cfg.CMD_SET_QUAD], some [cfg.CMD_SEL_CTRL]] := by
  simp [programmedAt, sentAt]

/-- What the last programming exchange does to the register states. -/
theorem noteProgrammed_eq {s : State} {rx} {enc : Six EncState} (hw : s.CFG.wf = true) {trace} (ht : s.TRACE =
    trace ++ [.xfr s.A (some [s.CFG.CMD_SET_SEC]) rx])
   (he : ∀ c, enc.get c = .configured ↔ s.ENC.get c = .configured ∨
      (s.A = s.CFG.pattern c ∧
        (sentAt s.A trace).reverse.take 2 = [some [s.CFG.CMD_SET_QUAD], some [s.CFG.CMD_SEL_CTRL]])) :
   s.noteProgrammed = { s with ENC := enc } := by
  unfold State.noteProgrammed
  cases hc : s.CFG.channelOf s.A with
  | none =>
    have := Cfg.channelOf_eq_none.mp hc
    have : s.ENC = enc := Six.ext_get fun c => EncState.ext_configured (by
      rw [he c]; simp; intro h; exact absurd h.symm (this c))
    rw [← this]
  | some c =>
    have hp := Cfg.pattern_of_channelOf hc
    simp only
    have e0 : programmedAt s.CFG s.A s.TRACE = programmedAt s.CFG s.A (trace ++ [.xfr s.A (some [s.CFG.CMD_SET_SEC])
        rx]) := by rw [ht]
    rw [e0]
    by_cases h : programmedAt s.CFG s.A (trace ++ [.xfr s.A (some [s.CFG.CMD_SET_SEC]) rx]) = true
    · rw [if_pos h]
      have h2 := programmedAt_append.mp h
      have : s.ENC.set c .configured = enc := Six.ext_get fun d => EncState.ext_configured (by
        rw [he d]
        by_cases hd : d = c
        · subst hd; simp [hp, h2]
        · rw [Six.get_set_other _ _ hd]
          simp
          intro h _; exact absurd (Cfg.pattern_inj hw (h.symm.trans hp.symm)) hd)
      rw [← this]
    · rw [if_neg h]
      have h2 := mt programmedAt_append.mpr h
      have : s.ENC = enc := Six.ext_get fun c => EncState.ext_configured (by rw [he c]; simp [h2])
      rw [← this]

/-- The duties of a fetch, as a proposition. -/
theorem fetchBreach_iff {s : State} : s.fetchBreach = true ↔ ¬ s.fetchDuty := by
  unfold State.fetchBreach State.fetchDuty
  rw [Bool.or_eq_true, Option.isNone_iff_eq_none, Cfg.channelOf_eq_none, not_and_or]
  apply or_congr
  · simp only [not_exists]; exact forall_congr' fun c => not_congr eq_comm
  · rw [Bool.not_eq_true', ← Bool.not_eq_true, not_iff_not]
    unfold State.readJustSent
    rcases List.eq_nil_or_concat s.TRACE with h | ⟨l, x, h⟩
    · simp [h]
    · rw [h]; simp only [List.concat_eq_append, List.getLast?_append, List.getLast?_singleton, Option.some_or]
      cases x with
      | xfr a t r => 
        simp only [Bool.and_eq_true, beq_iff_eq]
        constructor
        · rintro ⟨rfl, rfl⟩; exact ⟨_, _, rfl⟩
        · rintro ⟨b, rx, h⟩
          have := List.append_inj_right' h rfl
          simp at this; exact ⟨this.1, this.2.1⟩
      | _ => 
        simp only [Bool.false_eq_true, false_iff]
        rintro ⟨b, rx, h⟩
        have := List.append_inj_right' h rfl
        simp at this

/-- A fetch whose transfer succeeds. -/
theorem xfetchEffect_of_moves {s : State} {rx e} {haz : Bool}
    (ha : s.admitted = true) (hm : s.ENV.moves 4 rx e) (hlb : s.loopback = true → rx = s.CFG.fetchFrame)
    (hh : haz = (s.HAZ || s.fetchBreach)) :
    xfetchEffect s = .ok (be32 rx) { s with
        TXBUF := none, RXBUF := none, CNT := some (be32 rx), HAZ := haz, SENT := s.SENT + 4, RCVD := s.RCVD + 4,
        TRACE := s.TRACE ++ [.xfr s.A (some s.CFG.fetchFrame) (some rx)], ENV := e } := by
  have x := @exchange_of_moves (s.noteBreach s.fetchBreach) s.CFG.fetchFrame rx e hm hlb
  have hp : (s.noteBreach s.fetchBreach).present s.CFG.fetchFrame = (some s.CFG.fetchFrame, true)
      := State.present_of_admitted ha _
  rw [hp] at x
  subst hh
  simp only [xfetchEffect, memRead]
  change (exchange s.CFG.fetchFrame _).andThen _ = _
  rw [x]; rfl

/-! Operations of one exchange, as one. -/

/-- The check of the duties of an operation of one exchange. -/
def State.breaks (s : State) (i : Instr) : Bool :=
  match i.command with
  | some k => s.commandBreach k
  | none => i.fetches && s.fetchBreach

/-- The check of the duties of an operation of one exchange, as a proposition. -/
theorem breaks_iff {s : State} {i : Instr} (hw : s.CFG.wf = true ∨ i.command = none) :
    s.breaks i = true ↔ ¬ s.keepsDuty i := by
  unfold State.breaks State.keepsDuty
  cases hc : i.command with
  | none => cases i.fetches <;> simp [fetchBreach_iff]
  | some k =>
    have hf : i.fetches = false := by cases i <;> simp [Instr.command] at hc <;> rfl
    have hw : s.CFG.wf = true := by simpa [hc] using hw
    simp [hf, commandBreach_iff hw]

/-- What an operation of one exchange does with the bytes received. -/
def State.takeAnswer (t : State) (i : Instr) (rx : Option (List Byte)) : State :=
  if i.fetches then { t with CNT := some (be32 (rx.getD [])) }
  else if i.command = some .setSec then t.noteProgrammed else t

/-- What an operation of one exchange returns. -/
def answerOf (i : Instr) (rx : Option (List Byte)) : Returned :=
  if i.fetches then .count (be32 (rx.getD [])) else if i.command = none then .bytes rx else .ok

/-- Every operation of one exchange notes its duties, makes its exchange, and goes on with the bytes received. -/
theorem exec_frame {s : State} {i : Instr} {tx : List Byte} (hf : frameOf s.CFG i = some tx) (hl : s.live)
    (ho : s.LINK.OPENED = true) (ha : s.admitted = true ∨ i = .xchg tx) :
    exec i s =
      .next (((exchange tx (s.noteBreach (s.breaks i))).andThen fun rx t => .ok rx (t.takeAnswer i rx)).settle
        (answerOf i)) := by
  have hn : s.noteBreach false = s := by simp [State.noteBreach]
  have link : ∀ t, guarded [s.inTerminal, s.linkClosed] t = .next t := fun t =>
    guarded_eq_next.mpr ⟨by simp [State.inTerminal, live_iff_not_terminal.mp hl, State.linkClosed, ho], rfl⟩
  have encoder : s.admitted = true → ∀ t, guarded [s.inTerminal, s.linkClosed, s.notAdmitted] t = .next t := fun ha t =>
    guarded_eq_next.mpr
      ⟨by simp [State.inTerminal, live_iff_not_terminal.mp hl, State.linkClosed, ho, State.notAdmitted, ha], rfl⟩
  have command : ∀ k, s.admitted = true → (∀ t : State, ∀ rx, t.takeAnswer i rx =
      if k = .setSec then t.noteProgrammed else t) → (∀ rx, answerOf i rx = .ok) →
      guarded [s.inTerminal, s.linkClosed, s.notAdmitted] ((xcmdEffect k s).settle fun _ => .ok) =
        .next (((exchange [s.CFG.cmdByte k] (s.noteBreach (s.commandBreach k))).andThen
          fun rx t => .ok rx (t.takeAnswer i rx)).settle (answerOf i)) := by
    intro k ha h1 h2
    rw [encoder ha, xcmdEffect, memWrite]
    cases exchange [s.CFG.cmdByte k] (s.noteBreach (s.commandBreach k)) <;> simp [h1, h2]
  have fetch : s.admitted = true → (∀ t : State, ∀ rx, t.takeAnswer i rx = { t with CNT := some (be32 (rx.getD [])) }) →
      (∀ rx, answerOf i rx = .count (be32 (rx.getD []))) →
      guarded [s.inTerminal, s.linkClosed, s.notAdmitted] ((xfetchEffect s).settle .count) =
        .next (((exchange s.CFG.fetchFrame (s.noteBreach s.fetchBreach)).andThen
          fun rx t => .ok rx (t.takeAnswer i rx)).settle (answerOf i)) := by
    intro ha h1 h2
    rw [encoder ha, xfetchEffect, memRead]
    change Host.Outcome.next (((exchange s.CFG.fetchFrame _).andThen _).settle _) = _
    cases exchange s.CFG.fetchFrame (s.noteBreach s.fetchBreach) <;> simp [h1, h2]
  cases i with
  | xchg tx' =>
    cases hf
    change guarded [s.inTerminal, s.linkClosed] _ = _
    rw [link, show s.breaks (.xchg tx) = false from rfl, hn]
    cases exchange tx s <;> rfl
  | xcmd k =>
    cases hf
    exact command k (by simpa using ha) (fun t rx => by simp [State.takeAnswer, Instr.fetches, Instr.command])
      fun rx => rfl
  | cmdSelCtrl => cases hf; exact command .selCtrl (by simpa using ha) (fun _ _ => rfl) fun _ => rfl
  | cmdSetQuad => cases hf; exact command .setQuad (by simpa using ha) (fun _ _ => rfl) fun _ => rfl
  | cmdSetSec => cases hf; exact command .setSec (by simpa using ha) (fun _ _ => rfl) fun _ => rfl
  | cmdReadPos => cases hf; exact command .readPos (by simpa using ha) (fun _ _ => rfl) fun _ => rfl
  | xfetch => cases hf; exact fetch (by simpa using ha) (fun _ _ => rfl) fun _ => rfl
  | fetch32 => cases hf; exact fetch (by simpa using ha) (fun _ _ => rfl) fun _ => rfl
  | _ => cases hf

/-- The state after one programming bracket. -/
def bracketState (s : State) (c : Chan) (k : Cmd) (rx : List Byte) (e : Environment) (haz : Bool) : State :=
  { s with
    A := s.CFG.IDLE_PATTERN, TXBUF := none, RXBUF := none, HAZ := haz, SENT := s.SENT + 1, RCVD := s.RCVD + 1,
    TRACE := s.TRACE ++ [.drv (s.CFG.pattern c), .xfr (s.CFG.pattern c) (some [s.CFG.cmdByte k]) (some rx),
        .drv s.CFG.IDLE_PATTERN],
    ENV := e }

/-- One programming bracket whose transfer succeeds. -/
theorem bracket_ok {s : State} {c : Chan} {k : Cmd} {rx e} {haz : Bool} 
    (ha : s.admitted = true) (hm : s.ENV.moves 1 rx e) (hlb : s.loopback = true → rx = [s.CFG.cmdByte k])
    (hh : haz = (s.HAZ || s.otherSelected c || (s.select c).commandBreach k)) (hk : k ≠ .setSec) :
    programBracket c.id k s = .ok () (bracketState s c k rx e haz) := by
  have x := @xcmdEffect_of_moves (s.select c) k rx e haz ha hm hlb hh
  simp only [programBracket, selEffect, Chan.ofId_id, Result.ok_andThen, x, if_neg hk, deselEffect]
  simp only [State.deselect, State.drive, State.select, State.noteBreach, bracketState, List.append_assoc,
      List.cons_append, List.nil_append]

/-- A command whose transfer fails. -/
theorem xcmdEffect_of_failure {s : State} {k : Cmd} {a e} (ht : s.ENV.transfer = (a, e)) (ha : a ≠ .done) :
    xcmdEffect k s =
      .error .ioError (transferError a 1)
        { s with HAZ := s.HAZ || s.commandBreach k, TXBUF := none, RXBUF := none, ENV := e } := by
  have x := @exchange_of_failure (s.noteBreach (s.commandBreach k)) [s.CFG.cmdByte k] a e ht ha
  simp only [xcmdEffect, memWrite, x]; rfl

/-- One programming bracket whose transfer fails: the chip is left selected. -/
theorem bracket_of_failure {s : State} {c : Chan} {k : Cmd} {a e} {haz : Bool} (ht : s.ENV.transfer = (a, e))
    (ha : a ≠ .done) (hh : haz = (s.HAZ || s.otherSelected c || (s.select c).commandBreach k)) :
    programBracket c.id k s =
      .error .ioError (transferError a 1)
        { s with
          A := s.CFG.pattern c, HAZ := haz, TXBUF := none, RXBUF := none, TRACE := s.TRACE ++ [.drv (s.CFG.pattern c)],
          ENV := e } := by
  have x := @xcmdEffect_of_failure (s.select c) k a e ht ha
  simp only [programBracket, selEffect, Chan.ofId_id, Result.ok_andThen, x, Result.error_andThen, hh]; rfl

/-- The third programming bracket, which completes the sequence. -/
theorem bracket3_ok {s : State} {c : Chan} {rx e} {haz : Bool} {enc}
    (ha : s.admitted = true) (hw : s.CFG.wf = true) (hm : s.ENV.moves 1 rx e) (hlb : s.loopback = true → rx =
        [s.CFG.CMD_SET_SEC])
    (hh : haz = (s.HAZ || s.otherSelected c || (s.select c).commandBreach .setSec))
    (he : ∀ d, enc.get d = .configured ↔ s.ENC.get d = .configured ∨
      (s.CFG.pattern c = s.CFG.pattern d ∧
        (sentAt (s.CFG.pattern c) (s.select c).TRACE).reverse.take 2 = [some [s.CFG.CMD_SET_QUAD], some
            [s.CFG.CMD_SEL_CTRL]])) :
    programBracket c.id .setSec s = .ok () { bracketState s c .setSec rx e haz with ENC := enc } := by
  have x := @xcmdEffect_of_moves (s.select c) .setSec rx e haz ha hm hlb hh
  simp only [if_true] at x
  have y : ∀ t : State, t.CFG = s.CFG → t.A = s.CFG.pattern c → t.ENC = s.ENC → t.TRACE = (s.select c).TRACE ++ [.xfr
      (s.CFG.pattern c) (some [s.CFG.CMD_SET_SEC]) (some rx)] →
     t.noteProgrammed = { t with ENC := enc } := by
    intro t h1 h2 h3 h4
    exact noteProgrammed_eq (by rw [h1]; exact hw) (by rw [h1, h2]; exact h4) (by rw [h1, h2, h3]; exact he)
  simp only [programBracket, selEffect, Chan.ofId_id, Result.ok_andThen, x]
  rw [y]
  · simp only [deselEffect, State.deselect, State.drive, State.select, State.noteBreach, bracketState]
    simp
  all_goals rfl

/-- No duty is broken by a programming command after its predecessor. -/
theorem commandBreach_false_of_last {s : State} {c : Chan} {k : Cmd} (hw : s.CFG.wf = true) (h : match k with
    | .selCtrl => True
    | .setQuad => (sentAt (s.CFG.pattern c) s.TRACE).getLast? = some (some [s.CFG.CMD_SEL_CTRL])
    | .setSec => (sentAt (s.CFG.pattern c) s.TRACE).getLast? = some (some [s.CFG.CMD_SET_QUAD])
    | .readPos => s.ENC.get c = .configured) : (s.select c).commandBreach k = false := by
  rw [← Bool.not_eq_true, commandBreach_iff (s := s.select c) hw, not_not]
  refine ⟨c, rfl, ?_⟩
  cases k <;> simp [State.lastSent, sentAt] at h ⊢ <;> exact h

/-- From the idle pattern no other channel is selected. -/
theorem otherSelected_idle {s : State} {c : Chan} (hw : s.CFG.wf = true) (h : s.A = s.CFG.IDLE_PATTERN)
    : s.otherSelected c = false := by
  rw [← Bool.not_eq_true, otherSelected_iff]
  rintro ⟨d, -, hd⟩
  exact Cfg.pattern_ne_idle hw d (hd.symm.trans h)

end Sys2Proof.Machine
end

