-- ==== Sys2Proof/Laws/Frames.lean ====
section
/-! SUPPORT. What an operation can change at most, said once: the relation `Within`, which the primitives satisfy
and which composes, so that the frame of an operation follows from those of its parts. -/

namespace Sys2Proof.Machine

/-- What an operation may do. -/
structure Kinds where
  drives : Bool
  exchanges : Bool
  count : Bool
  result : Bool
  programs : Bool
  duty : Bool
  asks : Bool
  deriving DecidableEq, Repr

/-- The kinds of an instruction. -/
def Kinds.ofInstr (i : Instr) : Kinds :=
  ⟨i.drives, i.exchanges, i.writesCount, i.writesResult, i.programs, i.checksDuty, i.asks⟩

/-- At most the given kinds: every kind of the first is one of the second. -/
structure Kinds.Le (k l : Kinds) : Prop where
  drives : l.drives = false → k.drives = false
  exchanges : l.exchanges = false → k.exchanges = false
  count : l.count = false → k.count = false
  result : l.result = false → k.result = false
  programs : l.programs = false → k.programs = false
  duty : l.duty = false → k.duty = false
  asks : l.asks = false → k.asks = false

/-- `t` is reached from `s` by operations of the given kinds, outside `OPEN`, `GINIT`, `ARM`, `RATE`, `EMIT`, `DEC` and
outside taking an error: what they leave alone and what only grows. -/
structure Within (k : Kinds) (s t : State) : Prop where
  position : t.PHASE = s.PHASE ∧ t.CH = s.CH ∧ t.STEP = s.STEP
  ends : t.FAULT = s.FAULT ∧ t.EXIT = s.EXIT
  constant : t.CFG = s.CFG ∧ t.REQS = s.REQS ∧ t.LINK = s.LINK ∧ t.GPIO_DIR = s.GPIO_DIR ∧ t.CYC = s.CYC
  reports : t.SNAP_SENT = s.SNAP_SENT ∧ t.SNAP_RCVD = s.SNAP_RCVD ∧ t.LAST_T = s.LAST_T
  lines : k.drives = false → t.A = s.A
  moved : k.exchanges = false →
    t.SENT = s.SENT ∧ t.RCVD = s.RCVD ∧ t.TXBUF = s.TXBUF ∧ t.RXBUF = s.RXBUF ∧ t.OUT = s.OUT
  count : k.count = false → t.CNT = s.CNT
  result : k.result = false → t.RES = s.RES
  programs : k.programs = false → t.ENC = s.ENC
  duty : k.duty = false → t.HAZ = s.HAZ
  asks : k.asks = false → t.ENV = s.ENV
  events : k.drives = false → k.exchanges = false → t.TRACE = s.TRACE
  trace : s.TRACE <+: t.TRACE
  out : s.OUT <+: t.OUT
  sent : s.SENT ≤ t.SENT ∧ s.RCVD ≤ t.RCVD
  configured : ∀ c, s.ENC.get c = .configured → t.ENC.get c = .configured
  breached : s.HAZ = true → t.HAZ = true

namespace Within

theorem refl (k : Kinds) (s : State) : Within k s s where
  position := ⟨rfl, rfl, rfl⟩
  ends := ⟨rfl, rfl⟩
  constant := ⟨rfl, rfl, rfl, rfl, rfl⟩
  reports := ⟨rfl, rfl, rfl⟩
  lines _ := rfl
  moved _ := ⟨rfl, rfl, rfl, rfl, rfl⟩
  count _ := rfl
  result _ := rfl
  programs _ := rfl
  duty _ := rfl
  asks _ := rfl
  events _ _ := rfl
  trace := List.prefix_refl _
  out := List.prefix_refl _
  sent := ⟨Nat.le_refl _, Nat.le_refl _⟩
  configured _ := id
  breached := id

theorem trans {k : Kinds} {s t u : State} (h : Within k s t) (g : Within k t u) : Within k s u where
  position := ⟨g.position.1.trans h.position.1, g.position.2.1.trans h.position.2.1,
      g.position.2.2.trans h.position.2.2⟩
  ends := ⟨g.ends.1.trans h.ends.1, g.ends.2.trans h.ends.2⟩
  constant := by
    obtain ⟨h1, h2, h3, h4, h5⟩ := h.constant
    obtain ⟨g1, g2, g3, g4, g5⟩ := g.constant
    exact ⟨g1.trans h1, g2.trans h2, g3.trans h3, g4.trans h4, g5.trans h5⟩
  reports := ⟨g.reports.1.trans h.reports.1, g.reports.2.1.trans h.reports.2.1, g.reports.2.2.trans h.reports.2.2⟩
  lines e := (g.lines e).trans (h.lines e)
  moved e := by
    obtain ⟨h1, h2, h3, h4, h5⟩ := h.moved e
    obtain ⟨g1, g2, g3, g4, g5⟩ := g.moved e
    exact ⟨g1.trans h1, g2.trans h2, g3.trans h3, g4.trans h4, g5.trans h5⟩
  count e := (g.count e).trans (h.count e)
  result e := (g.result e).trans (h.result e)
  programs e := (g.programs e).trans (h.programs e)
  duty e := (g.duty e).trans (h.duty e)
  asks e := (g.asks e).trans (h.asks e)
  events e f := (g.events e f).trans (h.events e f)
  trace := h.trace.trans g.trace
  out := h.out.trans g.out
  sent := ⟨h.sent.1.trans g.sent.1, h.sent.2.trans g.sent.2⟩
  configured c e := g.configured c (h.configured c e)
  breached e := g.breached (h.breached e)

theorem mono {k l : Kinds} {s t : State} (kl : k.Le l) (h : Within k s t) : Within l s t :=
  { h with
    lines := fun e => h.lines (kl.drives e)
    moved := fun e => h.moved (kl.exchanges e)
    count := fun e => h.count (kl.count e)
    result := fun e => h.result (kl.result e)
    programs := fun e => h.programs (kl.programs e)
    duty := fun e => h.duty (kl.duty e)
    asks := fun e => h.asks (kl.asks e)
    events := fun e f => h.events (kl.drives e) (kl.exchanges f) }

end Within

/-- Both outcomes of an operation leave a state with the property. -/
def Result.Leaves {α : Type} (r : Result α) (P : State → Prop) : Prop :=
  match r with
  | .ok _ t => P t
  | .error _ _ t => P t

@[simp] theorem Result.leaves_ok {α : Type} {v : α} {t : State} {P : State → Prop} :
    (Result.ok v t).Leaves P ↔ P t := Iff.rfl

@[simp] theorem Result.leaves_error {α : Type} {k : ErrKind} {i : ErrInfo} {t : State} {P : State → Prop} :
    (Result.error k i t : Result α).Leaves P ↔ P t := Iff.rfl

theorem Result.Leaves.imp {α : Type} {r : Result α} {P Q : State → Prop} (h : r.Leaves P) (g : ∀ t, P t → Q t) :
    r.Leaves Q := by
  cases r <;> exact g _ h

/-- A sequence of operations leaves the property if each keeps it. -/
theorem Result.Leaves.andThen {α β : Type} {r : Result α} {f : α → State → Result β} {P Q : State → Prop}
    (h : r.Leaves P) (g : ∀ v t, P t → (f v t).Leaves Q) (e : ∀ t, P t → Q t) : (r.andThen f).Leaves Q := by
  cases r with
  | ok v t => exact g v t h
  | error k i t => exact e t h

/-- The frame of a sequence of operations of one kind. -/
theorem Within.andThen {α β : Type} {k : Kinds} {s : State} {r : Result α} {f : α → State → Result β}
    (h : r.Leaves (Within k s)) (g : ∀ v t, (f v t).Leaves (Within k t)) : (r.andThen f).Leaves (Within k s) :=
  h.andThen (fun v t ht => (g v t).imp fun _ hu => ht.trans hu) fun _ => id

/-! The primitives. -/

theorem within_drive (k : Kinds) (hk : k.drives = true) (s : State) (p : Pattern) : Within k s (s.drive p) :=
  { Within.refl k s with
    lines := fun e => by simp [hk] at e
    events := fun e => by simp [hk] at e
    trace := ⟨[.drv p], rfl⟩ }

theorem within_noteBreach (k : Kinds) (hk : k.duty = true) (s : State) (b : Bool) : Within k s (s.noteBreach b) :=
  { Within.refl k s with
    duty := fun e => by simp [hk] at e
    breached := fun h => by simp [h] }

theorem within_afterTransfer (k : Kinds) (hx : k.exchanges = true) (ha : k.asks = true) (s : State) (tx : List Byte)
    (e : Environment) : Within k s (s.afterTransfer tx e) :=
  { Within.refl k s with
    moved := fun h => by simp [hx] at h
    asks := fun h => by simp [ha] at h
    events := fun _ h => by simp [hx] at h
    trace := ⟨_, rfl⟩
    sent := ⟨Nat.le_add_right _ _, Nat.le_add_right _ _⟩ }

theorem within_failed (k : Kinds) (hx : k.exchanges = true) (ha : k.asks = true) (s : State) (e : Environment) :
    Within k s { s with ENV := e, TXBUF := none, RXBUF := none } :=
  { Within.refl k s with
    moved := fun h => by simp [hx] at h
    asks := fun h => by simp [ha] at h }

theorem within_emit (k : Kinds) (hx : k.exchanges = true) (s : State) (o : OutEvent) : Within k s (s.emit o) :=
  { Within.refl k s with
    moved := fun h => by simp [hx] at h
    out := ⟨[o], rfl⟩ }

/-- The frame of an exchange. -/
theorem within_exchange (k : Kinds) (hx : k.exchanges = true) (ha : k.asks = true) (tx : List Byte) (s : State) :
    (exchange tx s).Leaves (Within k s) := by
  rcases exchange_cases tx s with ⟨e, i, -, h⟩ | ⟨e, h⟩ | ⟨e, ds, -, -, h⟩ | ⟨e, ds, h⟩ <;> rw [h]
  · exact within_failed k hx ha s e
  · exact within_afterTransfer k hx ha s tx e
  · exact (within_afterTransfer k hx ha s tx e).trans (within_emit k hx _ _)
  · exact within_afterTransfer k hx ha s tx e

theorem within_noteProgrammed (k : Kinds) (hk : k.programs = true) (s : State) : Within k s s.noteProgrammed := by
  unfold State.noteProgrammed
  split
  · split
    · rename_i c _ _
      exact { Within.refl k s with
        programs := fun e => by simp [hk] at e
        configured := fun d h => by
          by_cases e : d = c
          · simp [e]
          · simpa [Six.get_set_other _ _ e] using h }
    · exact Within.refl k s
  · exact Within.refl k s

/-! The operations. -/

theorem within_selEffect (k : Kinds) (hd : k.drives = true) (hu : k.duty = true) (c : Int) (s : State) :
    (selEffect c s).Leaves (Within k s) := by
  unfold selEffect
  split
  · exact Within.refl k s
  · exact (within_noteBreach k hu s _).trans (within_drive k hd _ _)

theorem within_deselEffect (k : Kinds) (hd : k.drives = true) (s : State) : (deselEffect s).Leaves (Within k s) :=
  within_drive k hd s _

theorem within_xcmdEffect (k : Kinds) (hx : k.exchanges = true) (ha : k.asks = true) (hu : k.duty = true) (c : Cmd)
    (hp : c = .setSec → k.programs = true) (s : State) : (xcmdEffect c s).Leaves (Within k s) := by
  unfold xcmdEffect memWrite
  refine Result.Leaves.andThen (P := Within k s) ?_ ?_ fun _ => id
  · refine Result.Leaves.andThen (P := Within k s) ?_ (fun _ _ => id) fun _ => id
    exact (within_exchange k hx ha _ _).imp fun _ h => (within_noteBreach k hu s _).trans h
  · intro _ t ht
    by_cases e : c = .setSec
    · rw [if_pos e]
      exact ht.trans (within_noteProgrammed k (hp e) t)
    · rw [if_neg e]
      exact ht

theorem within_xfetchEffect (k : Kinds) (hx : k.exchanges = true) (ha : k.asks = true) (hu : k.duty = true)
    (hc : k.count = true) (s : State) : (xfetchEffect s).Leaves (Within k s) := by
  unfold xfetchEffect memRead
  refine Result.Leaves.andThen (P := Within k s) ?_ ?_ fun _ => id
  · exact (within_exchange k hx ha _ _).imp fun _ h => (within_noteBreach k hu s _).trans h
  · intro _ t ht
    exact ht.trans { Within.refl k t with count := fun e => by simp [hc] at e }

theorem within_programEffect (k : Kinds) (hd : k.drives = true) (hx : k.exchanges = true) (ha : k.asks = true)
    (hu : k.duty = true) (hp : k.programs = true) (c : Int) (s : State) : (programEffect c s).Leaves (Within k s) := by
  have bracket : ∀ j t, (programBracket c j t).Leaves (Within k t) := fun j t =>
    (within_selEffect k hd hu c t).andThen
      (fun _ u hu' => ((within_xcmdEffect k hx ha hu j (fun _ => hp) u).andThen
        (fun _ v hv => (within_deselEffect k hd v).imp fun _ h => hv.trans h) fun _ => id).imp
          fun _ h => hu'.trans h) fun _ => id
  unfold programEffect
  split
  · exact Within.refl k s
  · exact Within.andThen (bracket _ _) fun _ _ => Within.andThen (bracket _ _) fun _ _ => bracket _ _

theorem within_readEffect (k : Kinds) (hx : k.exchanges = true) (ha : k.asks = true) (hu : k.duty = true)
    (hc : k.count = true) (c : Int) (s : State) : (readEffect c s).Leaves (Within k s) := by
  unfold readEffect
  split
  · exact Within.refl k s
  · refine Within.andThen ?_ fun _ t => within_xfetchEffect k hx ha hu hc t
    exact (within_xcmdEffect k hx ha hu .readPos (by simp) _).imp fun _ h => (within_noteBreach k hu s _).trans h

theorem within_convEffect (k : Kinds) (hc : k.count = true) (hr : k.result = true) (slot : Nat) (s : State) :
    (convEffect slot s).Leaves (Within k s) := by
  unfold convEffect
  split
  · exact { Within.refl k s with
      count := fun e => by simp [hc] at e
      result := fun e => by simp [hr] at e }
  · exact Within.refl k s

theorem within_progchEffect (k : Kinds) (hd : k.drives = true) (hx : k.exchanges = true) (ha : k.asks = true)
    (hu : k.duty = true) (hp : k.programs = true) (c : Int) (s : State) : (progchEffect c s).Leaves (Within k s) :=
  Within.andThen (within_deselEffect k hd s) fun _ t =>
    Within.andThen (within_selEffect k hd hu c t) fun _ u =>
      Within.andThen (within_programEffect k hd hx ha hu hp c u) fun _ v => within_deselEffect k hd v

theorem within_pollchEffect (k : Kinds) (hd : k.drives = true) (hx : k.exchanges = true) (ha : k.asks = true)
    (hu : k.duty = true) (hc : k.count = true) (hr : k.result = true) (c : Int) (s : State) :
    (pollchEffect c s).Leaves (Within k s) :=
  Within.andThen (within_selEffect k hd hu c s) fun _ t =>
    Within.andThen (within_readEffect k hx ha hu hc c t) fun _ u =>
      Within.andThen (within_convEffect k hc hr _ u) fun _ v => within_deselEffect k hd v

theorem within_addr3Effect (k : Kinds) (hd : k.drives = true) (hu : k.duty = true) (p : Pattern) (s : State) :
    (addr3Effect p s).Leaves (Within k s) := by
  unfold addr3Effect
  split
  · exact within_drive k hd s _
  · split
    · exact (within_noteBreach k hu s _).trans (within_drive k hd _ _)
    · exact Within.refl k s

/-! Recording the outcome. -/

/-- A completed operation left a state, recorded the outcome in `RET` and, under the sequencer, halted on an error. -/
theorem settle_cases {α : Type} {r : Result α} {ret : α → Returned} {P : State → Prop} (h : r.Leaves P) :
    ∃ t, P t ∧
      ((∃ v, r = .ok v t ∧ r.settle ret = { t with RET := ret v }) ∨
        ∃ k i, r = .error k i t ∧ r.settle ret = t.takeError k i) := by
  cases r with
  | ok v t => exact ⟨t, h, .inl ⟨v, rfl, rfl⟩⟩
  | error k i t => exact ⟨t, h, .inr ⟨k, i, rfl, rfl⟩⟩

/-- Taking an error writes the outcome, and under the sequencer the fault record, the phase, the exit status and the
`FATAL` event: nothing else. -/
theorem takeError_cases (s : State) (k : ErrKind) (i : ErrInfo) :
    (s.REQS ≠ [] ∧ s.takeError k i = { s with RET := .error k i }) ∨
    (s.REQS = [] ∧ s.takeError k i =
      { s with
        FAULT := some ⟨k, k.code, i⟩, OUT := s.OUT ++ [.fatal k k.code i], PHASE := .halted, EXIT := .exitedNonzero,
        RET := .error k i }) := by
  by_cases h : s.REQS = []
  · exact .inr ⟨h, State.takeError_of_sequencer (State.sequenced_iff.mpr h) k i⟩
  · refine .inl ⟨h, State.takeError_of_harness ?_ k i⟩
    simpa [State.sequenced] using h

end Sys2Proof.Machine
end

