-- ==== Sys2Proof/Laws/Exec.lean ====
section
/-! SUPPORT. What a completed operation has done, said once for all instructions. -/

namespace Sys2Proof.Machine

/-- An outcome that is no error. -/
def Returned.fine (r : Returned) : Prop := ∀ k i, r ≠ .error k i

/-- How a completed operation ends once its effect has left `u`: with a value, or by taking an error. -/
def Ends (u t : State) : Prop := (∃ r : Returned, r.fine ∧ t = { u with RET := r }) ∨ ∃ k i, t = u.takeError k i

/-- The instructions whose effect is `Within` their kinds: all but those that bring the link and the lines up, the
bookkeeping of the polling loop, and the stand-alone comparison. -/
def isPlain : Instr → Bool
  | .openLink | .ginit | .arm | .emit | .rate | .dec | .vloop | .reservedOp0 _ | .reservedOpF _ => false
  | _ => true

theorem ends_of_settle {α : Type} {r : Result α} {ret : α → Returned} {P : State → Prop} (h : r.Leaves P)
    (hr : ∀ v, (ret v).fine) : ∃ u, P u ∧ Ends u (r.settle ret) := by
  obtain ⟨u, hu, ⟨v, -, e⟩ | ⟨k, i, -, e⟩⟩ := settle_cases (ret := ret) h
  · exact ⟨u, hu, .inl ⟨_, hr v, e⟩⟩
  · exact ⟨u, hu, .inr ⟨k, i, e⟩⟩

theorem fine_ok : Returned.ok.fine := fun _ _ => by simp

theorem fine_count (n : Count32) : (Returned.count n).fine := fun _ _ => by simp

theorem fine_bytes (b : Option (List Byte)) : (Returned.bytes b).fine := fun _ _ => by simp

theorem fine_report (r : Option (Ratio × Ratio)) : (Returned.report r).fine := fun _ _ => by simp

/-- A guarded operation that completed has run its effect. -/
theorem effect_of_next {α : Type} {cs : List (Bool × Refusal)} {r : Result α} {ret : α → Returned} {t : State}
    {P : State → Prop} (h : guarded cs (r.settle ret) = .next t) (hP : r.Leaves P) (hr : ∀ v, (ret v).fine) :
    ∃ u, P u ∧ Ends u t := by
  rw [(guarded_eq_next.mp h).2]
  exact ends_of_settle hP hr

/-- What a completed plain operation has done: its effect, within its kinds, then its ending. -/
theorem exec_plain {i : Instr} (hi : isPlain i = true) {s t : State} (h : exec i s = .next t) :
    ∃ u, Within (Kinds.ofInstr i) s u ∧ Ends u t := by
  cases i with
  | desel => exact effect_of_next h (within_deselEffect _ rfl s) fun _ => fine_ok
  | sel c => exact effect_of_next h (within_selEffect _ rfl rfl c s) fun _ => fine_ok
  | selc => exact effect_of_next h (within_selEffect _ rfl rfl _ s) fun _ => fine_ok
  | xcmd k => exact effect_of_next h (within_xcmdEffect _ rfl rfl rfl k (by rintro rfl; rfl) s) fun _ => fine_ok
  | xfetch => exact effect_of_next h (within_xfetchEffect _ rfl rfl rfl rfl s) fine_count
  | convAngle sel => exact effect_of_next h (within_convEffect _ rfl rfl _ s) fun _ => fine_ok
  | xchg tx => exact effect_of_next h (within_exchange _ rfl rfl tx s) fine_bytes
  | program c => exact effect_of_next h (within_programEffect _ rfl rfl rfl rfl rfl c s) fun _ => fine_ok
  | readCount c => exact effect_of_next h (within_readEffect _ rfl rfl rfl rfl c s) fine_count
  | progch c => exact effect_of_next h (within_progchEffect _ rfl rfl rfl rfl rfl c s) fun _ => fine_ok
  | pollch c => exact effect_of_next h (within_pollchEffect _ rfl rfl rfl rfl rfl rfl c s) fun _ => fine_ok
  | addr3 p => exact effect_of_next h (within_addr3Effect _ rfl rfl p s) fun _ => fine_ok
  | cmdSelCtrl => exact effect_of_next h (within_xcmdEffect _ rfl rfl rfl .selCtrl (by simp) s) fun _ => fine_ok
  | cmdSetQuad => exact effect_of_next h (within_xcmdEffect _ rfl rfl rfl .setQuad (by simp) s) fun _ => fine_ok
  | cmdSetSec => exact effect_of_next h (within_xcmdEffect _ rfl rfl rfl .setSec (fun _ => rfl) s) fun _ => fine_ok
  | cmdReadPos => exact effect_of_next h (within_xcmdEffect _ rfl rfl rfl .readPos (by simp) s) fun _ => fine_ok
  | fetch32 => exact effect_of_next h (within_xfetchEffect _ rfl rfl rfl rfl s) fine_count
  | rsp32 a b c d =>
    refine effect_of_next h (Result.Leaves.imp (within_xfetchEffect (Kinds.ofInstr (.rsp32 a b c d))
        rfl rfl rfl rfl _) fun u hu => ?_) fine_count
    have prepared : Within (Kinds.ofInstr (.rsp32 a b c d)) s { s with ENV := s.ENV.answering [a, b, c, d] } :=
      { Within.refl _ s with asks := fun e => by simp [Kinds.ofInstr, Instr.asks, Instr.exchanges] at e }
    exact prepared.trans hu
  | _ => simp [isPlain] at hi

/-! The other instructions. -/

/-- What a completed `OPEN` has done. -/
theorem exec_openLink {s t : State} (h : exec .openLink s = .next t) :
    s.LINK.OPENED = false ∧ ∃ e,
      ((∃ mode speed bpw, t = { ({ s with ENV := e } : State).opened mode speed bpw with RET := .ok }) ∨
        ∃ i, t = ({ s with ENV := e } : State).forgetEff.takeError .ioError i) := by
  obtain ⟨hg, rfl⟩ := guarded_eq_next.mp h
  refine ⟨by simpa using hg (s.LINK.OPENED, .alreadyOpen) (by simp), ?_⟩
  have key : (∃ m v b e, negotiateAll s = .ok (m, v, b) { s with ENV := e }) ∨
      ∃ i e, negotiateAll s = .error .ioError i { s with ENV := e } := by
    unfold negotiateAll openDevice negotiate
    repeat' first
      | exact .inl ⟨_, _, _, _, rfl⟩
      | exact .inr ⟨_, _, rfl⟩
      | split
      | simp only [Result.ok_andThen]
  rcases key with ⟨m, v, b, e, hk⟩ | ⟨i, e, hk⟩
  · exact ⟨e, .inl ⟨m, v, b, by simp only [openEffect, hk]; rfl⟩⟩
  · exact ⟨e, .inr ⟨i, by simp only [openEffect, hk]; rfl⟩⟩

/-- What a completed `GINIT` has done. -/
theorem exec_ginit {s t : State} (h : exec .ginit s = .next t) :
    ∃ e, t = { s with ENV := e, GPIO_DIR := .outputs, TRACE := s.TRACE ++ [.gin], RET := .ok } ∨
      t = ({ s with ENV := e } : State).takeError .ioError .gpioInit := by
  obtain ⟨-, rfl⟩ := guarded_eq_next.mp h
  unfold ginitEffect
  split
  · exact ⟨_, .inr rfl⟩
  · exact ⟨_, .inl rfl⟩

/-- What a completed `ARM` has done. -/
theorem exec_arm {s t : State} (h : exec .arm s = .next t) :
    t = { s with CYC := some s.CFG.cycles, LAST_T := some s.ENV.now.1, ENV := s.ENV.now.2, RET := .ok } :=
  (guarded_eq_next.mp h).2

/-- What a completed `EMIT` has done. -/
theorem exec_emit {s t : State} (h : exec .emit s = .next t) :
    t = { s with OUT := s.OUT ++ [.result s.angles], RET := .ok } :=
  (guarded_eq_next.mp h).2

/-- What a completed `DEC` has done. -/
theorem exec_dec {s t : State} (h : exec .dec s = .next t) :
    ∃ n, s.CYC = some (n + 1) ∧ t = { s with CYC := some n, RET := .ok } := by
  obtain ⟨hg, rfl⟩ := guarded_eq_next.mp h
  have hc : s.noCycle = false := hg (s.noCycle, .noCycleLeft) (by simp)
  unfold State.noCycle at hc
  split at hc
  · simp at hc
  · rename_i n hn
    obtain ⟨m, rfl⟩ : ∃ m, n = m + 1 := ⟨n - 1, by simp at hc; omega⟩
    exact ⟨m, hn, by simp [decEffect, hn]⟩

/-- What a completed `RATE` has done. -/
theorem exec_rate {s t : State} (h : exec .rate s = .next t) :
    t = { s with ENV := s.ENV.now.2, RET := .report none } ∨
    ∃ tx rx, t =
      { ({ s with ENV := s.ENV.now.2 } : State).reported s.ENV.now.1 tx rx with RET := .report (some (tx, rx)) } := by
  obtain ⟨-, rfl⟩ := guarded_eq_next.mp h
  unfold rateEffect
  split
  · exact .inl rfl
  · simp only
    split
    · exact .inr ⟨_, _, rfl⟩
    · exact .inl rfl

/-- What a completed `VLOOP` has done. -/
theorem exec_vloop {s t : State} (h : exec .vloop s = .next t) :
    t = { s with RET := .ok } ∨ (∃ o, t = { s.emit o with RET := .ok }) ∨ ∃ k i, t = s.takeError k i := by
  obtain ⟨-, rfl⟩ := guarded_eq_next.mp h
  unfold verifyLatest
  split
  · rename_i tx rx _
    rcases verifyLoop_cases tx rx () s with ⟨-, e⟩ | ⟨-, -, -, -, e⟩ | ⟨-, -, -, e⟩ <;> rw [e]
    · exact .inl rfl
    · exact .inr (.inl ⟨_, rfl⟩)
    · exact .inr (.inr ⟨_, _, rfl⟩)
  · exact .inl rfl

/-- Every completed operation ends with a value or by taking an error, and its effect before that has written neither
the position, nor the fault record, nor the exit status, nor what is pending. -/
theorem exec_ends {i : Instr} {s t : State} (h : exec i s = .next t) :
    ∃ u, (u.PHASE = s.PHASE ∧ u.CH = s.CH ∧ u.STEP = s.STEP ∧ u.FAULT = s.FAULT ∧ u.EXIT = s.EXIT ∧ u.REQS = s.REQS ∧
      u.CFG = s.CFG ∧ s.OUT <+: u.OUT) ∧ Ends u t := by
  by_cases hp : isPlain i = true
  · obtain ⟨u, hu, he⟩ := exec_plain hp h
    exact ⟨u, ⟨hu.position.1, hu.position.2.1, hu.position.2.2, hu.ends.1, hu.ends.2, hu.constant.2.1, hu.constant.1,
      hu.out⟩, he⟩
  · cases i with
    | openLink =>
      obtain ⟨-, e, ⟨m, v, b, rfl⟩ | ⟨i, rfl⟩⟩ := exec_openLink h
      · refine ⟨_, ?_, .inl ⟨_, fine_ok, rfl⟩⟩
        unfold State.opened
        simp only
        split <;> simp
      · exact ⟨State.forgetEff { s with ENV := e }, ⟨rfl, rfl, rfl, rfl, rfl, rfl, rfl, List.prefix_refl _⟩, .inr ⟨_,
          _, rfl⟩⟩
    | ginit =>
      obtain ⟨e, rfl | rfl⟩ := exec_ginit h
      · exact ⟨{ s with ENV := e, GPIO_DIR := .outputs, TRACE := s.TRACE ++ [.gin] },
          ⟨rfl, rfl, rfl, rfl, rfl, rfl, rfl, List.prefix_refl _⟩, .inl ⟨_, fine_ok, rfl⟩⟩
      · exact ⟨{ s with ENV := e }, ⟨rfl, rfl, rfl, rfl, rfl, rfl, rfl, List.prefix_refl _⟩, .inr ⟨_, _, rfl⟩⟩
    | arm =>
      exact ⟨{ s with CYC := some s.CFG.cycles, LAST_T := some s.ENV.now.1, ENV := s.ENV.now.2 },
        ⟨rfl, rfl, rfl, rfl, rfl, rfl, rfl, List.prefix_refl _⟩, .inl ⟨_, fine_ok, exec_arm h⟩⟩
    | emit => exact ⟨s.emit _, ⟨rfl, rfl, rfl, rfl, rfl, rfl, rfl, ⟨_, rfl⟩⟩, .inl ⟨_, fine_ok, exec_emit h⟩⟩
    | dec =>
      obtain ⟨n, -, e⟩ := exec_dec h
      exact ⟨{ s with CYC := some n }, ⟨rfl, rfl, rfl, rfl, rfl, rfl, rfl, List.prefix_refl _⟩, .inl ⟨_, fine_ok, e⟩⟩
    | rate =>
      rcases exec_rate h with e | ⟨tx, rx, e⟩
      · exact ⟨{ s with ENV := s.ENV.now.2 }, ⟨rfl, rfl, rfl, rfl, rfl, rfl, rfl, List.prefix_refl _⟩, .inl ⟨_,
          fine_report _, e⟩⟩
      · exact ⟨State.reported { s with ENV := s.ENV.now.2 } s.ENV.now.1 tx rx,
          ⟨rfl, rfl, rfl, rfl, rfl, rfl, rfl, ⟨_, rfl⟩⟩, .inl ⟨_, fine_report _, e⟩⟩
    | vloop =>
      rcases exec_vloop h with e | ⟨o, e⟩ | ⟨k, i, e⟩
      · exact ⟨s, ⟨rfl, rfl, rfl, rfl, rfl, rfl, rfl, List.prefix_refl _⟩, .inl ⟨_, fine_ok, e⟩⟩
      · exact ⟨s.emit o, ⟨rfl, rfl, rfl, rfl, rfl, rfl, rfl, ⟨_, rfl⟩⟩, .inl ⟨_, fine_ok, e⟩⟩
      · exact ⟨s, ⟨rfl, rfl, rfl, rfl, rfl, rfl, rfl, List.prefix_refl _⟩, .inr ⟨k, i, e⟩⟩
    | reservedOp0 a => simp [exec, execReservedOp0] at h
    | reservedOpF a => simp [exec, execReservedOpF] at h
    | _ => simp [isPlain] at hp

end Sys2Proof.Machine
end

