-- ==== Sys2Proof/Laws/Steps.lean ====
section
/-! SUPPORT. What a step is, for a harness and for the sequencer, and the words of the ROM. -/

namespace Sys2Proof.Machine

/-- What taking the outcome of an operation keeps. -/
theorem ends_frame {u t : State} (h : Ends u t) :
  (t.CH = u.CH ∧ t.STEP = u.STEP ∧ t.CFG = u.CFG ∧ t.REQS = u.REQS) ∧ t.A = u.A ∧ t.GPIO_DIR = u.GPIO_DIR ∧ t.LINK =
      u.LINK ∧
  t.SENT = u.SENT ∧ t.RCVD = u.RCVD ∧ t.TXBUF = u.TXBUF ∧ t.RXBUF = u.RXBUF ∧ t.CNT = u.CNT ∧ t.RES = u.RES ∧ t.ENC =
      u.ENC ∧
  t.HAZ = u.HAZ ∧ t.SNAP_SENT = u.SNAP_SENT ∧ t.SNAP_RCVD = u.SNAP_RCVD ∧ t.LAST_T = u.LAST_T ∧ t.CYC = u.CYC ∧
      t.TRACE = u.TRACE ∧ t.ENV = u.ENV ∧
  (u.OUT <+: t.OUT) ∧
  ((∀ k info, t.RET ≠ .error k info) ∨ u.REQS ≠ [] → t.PHASE = u.PHASE ∧ t.FAULT = u.FAULT ∧ t.EXIT = u.EXIT ∧
      t.OUT = u.OUT) := by
  rcases h with ⟨r, hr, rfl⟩ | ⟨k, i, rfl⟩
  · simp
  · rcases takeError_cases u k i with ⟨h, e⟩ | ⟨h, e⟩ <;> rw [e] <;> simp [h]

/-- What a harness step is. -/
theorem step_harness {s t : State} (hr : s.REQS ≠ []) (h : step s = .next t) : ∃ i u left, exec i s = .next u ∧ t =
    { u with REQS := left } := by
  unfold step at h
  split at h
  · unfold stepHarness at h
    split at h
    · simp at h
    · rename_i i left _
      unfold issued at h
      split at h <;> simp at h
      exact ⟨_, _, _, by assumption, h.symm⟩
  · contradiction

/-- The operations in the ROM. -/
def romInstrs : List Instr := [.openLink, .ginit, .desel, .selc, .xcmd .selCtrl, .xcmd .setQuad, .xcmd .setSec,
    .xcmd .readPos, .xfetch, .convAngle 0, .arm, .emit, .rate, .dec]

/-- Every word of the ROM decodes to one of them. -/
theorem decode_romWord {n p c st w} (h : romWord n p c st = some w) : ∃ i ∈ romInstrs, decode [w] = .ok (i, []) := by
  have hw : w ∈ [0x10, 0xE0, 0xA0, 0x80, 0x90, 0xB0] ++ programmingWords ++ pollingWords := by
    unfold romWord at h
    split at h <;> first | (simp at h; subst h; decide) | skip
    · split at h
      · have := List.mem_of_getElem? h; simp [this]
      · simp at h
    · split at h
      · have := List.mem_of_getElem? h; simp [this]
      · simp at h
    · simp at h
  simp only [programmingWords, pollingWords, List.cons_append, List.nil_append, List.mem_cons, List.not_mem_nil,
      or_false] at hw
  repeat' (rcases hw with rfl | hw)
  all_goals exact ⟨_, by decide, rfl⟩

/-- What a step of the sequencer is. -/
theorem step_sequencer {s t : State} (hr : s.REQS = []) (h : step s = .next t) : s.live ∧ 
    ((s.configRejected = true ∧ t = s.rejectConfig) ∨ ∃ w i u, s.configRejected = false ∧
        romWord s.CFG.N s.PHASE s.CH s.STEP = some w ∧ decode [w] = .ok (i, []) ∧ exec i s = .next u ∧ t =
        if u.PHASE = .halted then u else u.advance) := by
  unfold step at h
  rw [hr] at h
  simp only [stepSequencer] at h
  split at h
  · simp at h
  · rename_i hl
    refine ⟨live_iff_not_terminal.mpr (by simpa using hl), ?_⟩
    split at h
    · simp at h
    · rename_i w hw
      split at h
      · simp at h; exact .inl ⟨by assumption, h.symm⟩
      · split at h
        · simp at h
        · rename_i i rest hd
          unfold advanceUnlessHalted at h
          split at h <;> simp at h
          rename_i hex
          refine .inr ⟨w, i, _, Bool.not_eq_true _ ▸ ‹¬ s.configRejected = true›, hw, ?_, hex, h.symm⟩
          obtain ⟨j, -, hj⟩ := decode_romWord hw
          rw [hj] at hd; simp at hd; rw [hj, hd.1]

/-- No successor is halted. -/
theorem nextPos_ne_halted {n cyc p c st} (h : p ≠ .halted) : (nextPosition n cyc p c st).1 ≠ .halted := by
  unfold nextPosition
  split <;> (try split) <;> first | exact h | simp

/-- A select that errs changes nothing. -/
theorem selEffect_error {c : Int} {s t k i} (h : selEffect c s = .error k i t) : t = s := by
  unfold selEffect at h; split at h <;> simp at h; exact h.2.2.symm

/-- The operation at a known position. -/
theorem decode_at_position {s : State} {w i j} (hw : romWord s.CFG.N s.PHASE s.CH s.STEP = some w) (hd : decode [w] =
    .ok (i, [])) {p c st} (hp : s.PHASE = p) (hc : s.CH = c) (hs : s.STEP = st)
   {w' : Byte} (h : romWord s.CFG.N p c st = some w') (hj : decode [w'] = .ok (j, [])) : i = j := by
  rw [hp, hc, hs, h] at hw; simp at hw; subst hw; rw [hj] at hd; simp at hd; exact hd.symm

/-- The programming rows of the ROM. -/
theorem romWord_programming {n c st} (h1 : 1 ≤ c) (h2 : c ≤ n) : romWord n .programming c st =
    programmingWords[st]? := by
  simp only [romWord, h1, h2, and_self, if_true]

/-- The polling rows of the ROM. -/
theorem romWord_polling {n c st} (h2 : c + 1 ≤ n) : romWord n .polling (c+1) st = pollingWords[st]? := by
  simp only [romWord, h2, Nat.le_add_left, and_self, if_true]

/-- The position after an advance. -/
theorem advance_position {u : State} {p c st} (h : nextPosition u.CFG.N u.CYC u.PHASE u.CH u.STEP = (p, c, st))
    : u.advance.PHASE = p ∧ u.advance.CH = c ∧ u.advance.STEP = st := by
  simp [State.nextPos, h]

end Sys2Proof.Machine
end

