-- ==== Sys2Proof/Laws/Invariant.lean ====
section
/-! SUPPORT. The part of the machine's invariant that every operation keeps. -/

namespace Sys2Proof.Machine

/-- The part of the machine's invariant that does not speak of the position: every operation keeps it. -/
structure Held (s : State) : Prop where
  counters : s.SENT = s.RCVD ∧ s.SNAP_SENT ≤ s.SENT ∧ s.SNAP_RCVD ≤ s.RCVD
  accounted : s.SENT = bytesMoved s.TRACE
  buffers : s.TXBUF = none ∧ s.RXBUF = none
  lines : ∀ p, (drives s.TRACE).getLast? = some p → s.A = p ∧ usedPattern s.CFG p
  outputs : s.GPIO_DIR = .unconfigured → drives s.TRACE = []
  link : s.LINK.OPENED = false → (∀ a tx rx, BusEvent.xfr a tx rx ∉ s.TRACE) ∧ s.LINK.WARN = none
  request : s.LINK.REQ = s.CFG.REQ
  brackets : s.HAZ = false → bracketed s.CFG.IDLE_PATTERN (drives s.TRACE)

/-- The invariant contains it. -/
theorem Held.of_inv {s} (h : MachineInv s) : Held s := ⟨h.1, h.2, h.5, h.6, h.7, h.8, h.9, h.10⟩

/-- Brackets of a history with one more drive. -/
theorem bracketed_concat {idle : Pattern} {l : List Pattern} {p : Pattern} :
    bracketed idle (l ++ [p]) ↔ bracketed idle l ∧ ∀ q, l.getLast? = some q → (q = p ∨ q = idle ∨ p = idle) := by
  induction l with
  | nil => simp [bracketed]
  | cons a l ih =>
    cases l with
    | nil => simp [bracketed]
    | cons b l =>
      simp only [List.cons_append, bracketed] at ih ⊢
      rw [ih]
      simp only [List.getLast?_cons_cons]
      tauto

/-- Drives of a longer history. -/
theorem drives_append (a b) : drives (a ++ b) = drives a ++ drives b := List.filterMap_append

/-- Bytes of a longer history. -/
theorem bytesMoved_append (a b) : bytesMoved (a ++ b) = bytesMoved a + bytesMoved b := by simp [bytesMoved]

/-- Driving a channel keeps it. -/
theorem held_select {s : State} (h : Held s) (hg : s.GPIO_DIR = .outputs) (c : Chan) : Held (s.select c) where
  counters := h.counters
  accounted := by
    simp only [State.select_SENT, State.select_TRACE, bytesMoved_append, h.accounted]; rfl
  buffers := h.buffers
  lines := by
    intro p hp
    simp only [State.select_TRACE, drives_append] at hp
    simp [drives] at hp
    subst hp
    exact ⟨rfl, .inr ⟨c, rfl⟩⟩
  outputs := by intro e; simp [hg] at e
  link := by
    intro e; have := h.link e; simpa using this
  request := h.request
  brackets := by
    intro e
    simp only [State.select_TRACE, drives_append, State.select_CFG]
    simp only [State.select_HAZ, Bool.or_eq_false_iff] at e
    refine bracketed_concat.mpr ⟨h.brackets e.1, ?_⟩
    intro q hq
    obtain ⟨hA, hu⟩ := h.lines q hq
    rcases hu with hu | ⟨d, hd⟩
    · exact .inr (.inl hu)
    · left
      by_cases hdc : d = c
      · rw [hd, hdc]
      · have := otherSelected_iff.mpr ⟨d, hdc, hA.trans hd⟩
        rw [this] at e; simp at e

/-- Driving the idle pattern keeps it. -/
theorem held_deselect {s : State} (h : Held s) (hg : s.GPIO_DIR = .outputs) : Held s.deselect where
  counters := h.counters
  accounted := by
    simp only [State.deselect_SENT, State.deselect_TRACE, bytesMoved_append, h.accounted]; rfl
  buffers := h.buffers
  lines := by
    intro p hp
    simp only [State.deselect_TRACE, drives_append] at hp
    simp [drives] at hp
    subst hp
    exact ⟨rfl, .inl rfl⟩
  outputs := by intro e; simp [hg] at e
  link := by
    intro e; have := h.link e; simpa using this
  request := h.request
  brackets := by
    intro e
    simp only [State.deselect_TRACE, drives_append]
    exact bracketed_concat.mpr ⟨h.brackets e, fun q _ => .inr (.inr rfl)⟩

/-- An event counts as many bytes as its exchange moved. -/
theorem present_length {s : State} {tx rx : List Byte} (h : rx.length = tx.length) (a) :
   (BusEvent.xfr a (s.present tx).1 (if (s.present tx).2 then some rx else none)).length = tx.length := by
  unfold State.present
  split
  · rfl
  · split
    · rfl
    · split
      · exact h
      · rfl

/-- A completed transfer keeps it. -/
theorem held_after {s : State} (h : Held s) (ho : s.LINK.OPENED = true) (tx e) : Held (s.afterTransfer tx e) where
  counters := by
    obtain ⟨a,b,c⟩ := h.counters
    simp only [State.afterTransfer]; omega
  accounted := by
    simp only [State.afterTransfer, bytesMoved_append, h.accounted]
    simp only [bytesMoved, List.map_cons, List.map_nil, List.sum_cons, List.sum_nil]
    rw [present_length (Environment.receive_length _ _)]; rfl
  buffers := ⟨rfl, rfl⟩
  lines := by
    intro p hp
    simp only [State.afterTransfer, drives_append] at hp
    exact h.lines p (by simpa [drives] using hp)
  outputs := by
    intro e
    simp only [State.afterTransfer, drives_append]
    have := h.outputs e
    rw [this]; rfl
  link := by intro e; simp [State.afterTransfer, ho] at e
  request := h.request
  brackets := by
    intro e
    simp only [State.afterTransfer, drives_append]
    have := h.brackets e
    simpa [drives] using this

/-- It depends on these fields only. -/
theorem Held.same {s t : State} (h : Held s) (h1 : t.SENT = s.SENT) (h2 : t.RCVD = s.RCVD) (h3 : t.SNAP_SENT =
    s.SNAP_SENT) (h4 : t.SNAP_RCVD = s.SNAP_RCVD)
   (h5 : t.TRACE = s.TRACE) (h6 : t.TXBUF = none) (h7 : t.RXBUF = none) (h8 : t.A = s.A) (h9 : t.CFG = s.CFG) (h10 :
       t.GPIO_DIR = s.GPIO_DIR)
   (h11 : t.LINK = s.LINK) (h12 : t.HAZ = false → s.HAZ = false) : Held t where
  counters := by rw [h1,h2,h3,h4]; exact h.counters
  accounted := by rw [h1, h5]; exact h.accounted
  buffers := ⟨h6, h7⟩
  lines := by rw [h5, h8, h9]; exact h.lines
  outputs := by rw [h5, h10]; exact h.outputs
  link := by rw [h5, h11]; exact h.link
  request := by rw [h11, h9]; exact h.request
  brackets := by rw [h5, h9]; exact fun e => h.brackets (h12 e)

/-- Noting a breach keeps it. -/
theorem held_noteBreach {s : State} (h : Held s) (b) : Held (s.noteBreach b) :=
  h.same rfl rfl rfl rfl rfl h.buffers.1 h.buffers.2 rfl rfl rfl rfl (by simp +contextual)

/-- Output keeps it. -/
theorem held_emit {s : State} (h : Held s) (b) : Held (s.emit b) :=
  h.same rfl rfl rfl rfl rfl h.buffers.1 h.buffers.2 rfl rfl rfl rfl id

/-- An exchange keeps it. -/
theorem held_exchange {s : State} (h : Held s) (ho : s.LINK.OPENED = true) (tx) : (exchange tx s).Leaves
    (fun t => Held t ∧ t.LINK = s.LINK ∧ t.GPIO_DIR = s.GPIO_DIR) := by
  rcases exchange_cases tx s with ⟨e, i, -, h'⟩ | ⟨e, h'⟩ | ⟨e, ds, -, -, h'⟩ | ⟨e, ds, h'⟩ <;> rw [h']
  · exact ⟨h.same rfl rfl rfl rfl rfl rfl rfl rfl rfl rfl rfl id, rfl, rfl⟩
  · exact ⟨held_after h ho tx e, rfl, rfl⟩
  · exact ⟨held_emit (held_after h ho tx e) _, rfl, rfl⟩
  · exact ⟨held_after h ho tx e, rfl, rfl⟩

/-- It holds, with the link and the direction of the lines as given. -/
def HeldWith (l : Link) (g : GpioDir) (t : State) : Prop := Held t ∧ t.LINK = l ∧ t.GPIO_DIR = g

/-- The operation's effect keeps it. -/
theorem heldWith_noteProgrammed {l g} {s : State} (h : HeldWith l g s) : HeldWith l g s.noteProgrammed := by
  unfold State.noteProgrammed
  split
  · split
    · exact ⟨h.1.same rfl rfl rfl rfl rfl h.1.buffers.1 h.1.buffers.2 rfl rfl rfl rfl id, h.2⟩
    · exact h
  · exact h

/-- The operation's effect keeps it. -/
theorem heldWith_xcmd {l g} {s : State} (hl : l.OPENED = true) (h : HeldWith l g s) (k) : (xcmdEffect k s).Leaves
    (HeldWith l g) := by
  obtain ⟨h, rfl, rfl⟩ := h
  unfold xcmdEffect memWrite
  refine Result.Leaves.andThen (P := HeldWith s.LINK s.GPIO_DIR) ?_ ?_ fun _ => id
  · exact Result.Leaves.andThen (P := HeldWith s.LINK s.GPIO_DIR) (held_exchange (held_noteBreach h _) hl _)
      (fun _ _ => id) fun _ => id
  · intro _ t ht
    split
    · exact heldWith_noteProgrammed ht
    · exact ht

/-- The operation's effect keeps it. -/
theorem heldWith_xfetch {l g} {s : State} (hl : l.OPENED = true) (h : HeldWith l g s) : (xfetchEffect s).Leaves
    (HeldWith l g) := by
  obtain ⟨h, rfl, rfl⟩ := h
  unfold xfetchEffect memRead
  refine Result.Leaves.andThen (P := HeldWith s.LINK s.GPIO_DIR) (held_exchange (held_noteBreach h _) hl _)
      ?_ fun _ => id
  intro _ t ht
  exact ⟨ht.1.same rfl rfl rfl rfl rfl ht.1.buffers.1 ht.1.buffers.2 rfl rfl rfl rfl id, ht.2⟩

/-- The operation's effect keeps it. -/
theorem heldWith_sel {l g} {s : State} (hg : g = .outputs) (h : HeldWith l g s) (c) : (selEffect c s).Leaves
    (HeldWith l g) := by
  obtain ⟨h, rfl, rfl⟩ := h
  unfold selEffect
  split
  · exact ⟨h, rfl, rfl⟩
  · exact ⟨held_select h hg _, rfl, rfl⟩

/-- The operation's effect keeps it. -/
theorem heldWith_desel {l g} {s : State} (hg : g = .outputs) (h : HeldWith l g s) : (deselEffect s).Leaves
    (HeldWith l g) := by
  obtain ⟨h, rfl, rfl⟩ := h
  exact ⟨held_deselect h hg, rfl, rfl⟩

/-- The operation's effect keeps it. -/
theorem heldWith_bracket {l g} {s : State} (hl : l.OPENED = true) (hg : g = .outputs) (h : HeldWith l g s) (c k) :
    (programBracket c k s).Leaves (HeldWith l g) :=
  (heldWith_sel hg h c).andThen (fun _ _ h => (heldWith_xcmd hl h k).andThen (fun _ _ h => heldWith_desel hg h)
      fun _ => id) fun _ => id

/-- The operation's effect keeps it. -/
theorem heldWith_program {l g} {s : State} (c) (hl : Chan.ofId c ≠ none → l.OPENED = true) (hg : Chan.ofId c ≠ none →
    g = .outputs) (h : HeldWith l g s) : (programEffect c s).Leaves (HeldWith l g) := by
  unfold programEffect
  split
  · exact h
  · rename_i hc
    have hl := hl (by simp [hc]); have hg := hg (by simp [hc])
    exact (heldWith_bracket hl hg h c _).andThen (fun _ _ h => (heldWith_bracket hl hg h c _).andThen
        (fun _ _ h => heldWith_bracket hl hg h c _) fun _ => id) fun _ => id

/-- The operation's effect keeps it. -/
theorem heldWith_read {l g} {s : State} (c) (hl : Chan.ofId c ≠ none → l.OPENED = true) (h : HeldWith l g s) :
    (readEffect c s).Leaves (HeldWith l g) := by
  unfold readEffect
  split
  · exact h
  · rename_i hc
    have hl := hl (by simp [hc])
    exact (heldWith_xcmd hl (s := s.noteBreach _) ⟨held_noteBreach h.1 _, h.2⟩ _).andThen
        (fun _ _ h => heldWith_xfetch hl h) fun _ => id

/-- The operation's effect keeps it. -/
theorem heldWith_conv {l g} {s : State} (c) (h : HeldWith l g s) : (convEffect c s).Leaves (HeldWith l g) := by
  unfold convEffect
  split
  · exact ⟨h.1.same rfl rfl rfl rfl rfl h.1.buffers.1 h.1.buffers.2 rfl rfl rfl rfl id, h.2⟩
  · exact h

/-- The operation's effect keeps it. -/
theorem heldWith_sel_of_valid {l g} {s : State} (c) (hg : Chan.ofId c ≠ none → g = .outputs) (h : HeldWith l g s) :
    (selEffect c s).Leaves (HeldWith l g) := by
  by_cases hc : Chan.ofId c = none
  · unfold selEffect; rw [hc]; exact h
  · exact heldWith_sel (hg hc) h c

/-- The operation's effect keeps it. -/
theorem heldWith_progch {l g} {s : State} (c) (hl : Chan.ofId c ≠ none → l.OPENED = true) (hg : g = .outputs) (h :
    HeldWith l g s) : (progchEffect c s).Leaves (HeldWith l g) :=
  (heldWith_desel hg h).andThen (fun _ _ h => (heldWith_sel hg h c).andThen (fun _ _ h => (heldWith_program c hl
      (fun _ => hg) h).andThen (fun _ _ h => heldWith_desel hg h) fun _ => id) fun _ => id) fun _ => id

/-- The operation's effect keeps it. -/
theorem heldWith_pollch {l g} {s : State} (c) (hl : Chan.ofId c ≠ none → l.OPENED = true) (hg : Chan.ofId c ≠ none →
    g = .outputs) (h : HeldWith l g s) : (pollchEffect c s).Leaves (HeldWith l g) := by
  by_cases hc : Chan.ofId c = none
  · unfold pollchEffect selEffect; rw [hc]; exact h
  · have hg := hg hc
    exact (heldWith_sel hg h c).andThen (fun _ _ h => (heldWith_read c hl h).andThen (fun _ _ h =>
        (heldWith_conv _ h).andThen (fun _ _ h => heldWith_desel hg h) fun _ => id) fun _ => id) fun _ => id

/-- The operation's effect keeps it. -/
theorem heldWith_addr {l g} {s : State} (p) (hg : g = .outputs) (h : HeldWith l g s) : (addr3Effect p s).Leaves
    (HeldWith l g) := by
  obtain ⟨h, rfl, rfl⟩ := h
  unfold addr3Effect
  split
  · exact ⟨held_deselect h hg, rfl, rfl⟩
  · split
    · exact ⟨held_select h hg _, rfl, rfl⟩
    · exact ⟨h, rfl, rfl⟩

/-- Taking an outcome keeps it. -/
theorem held_ends {u t : State} (h : Held u) (he : Ends u t) : Held t := by
  obtain ⟨⟨f1,f2,f3,f4⟩,f5,f6,f7,f8,f9,f10,f11,f12,f13,f14,f15,f16,f17,f18,f19,f20,f21,-,-⟩ := ends_frame he
  exact h.same f8 f9 f16 f17 f20 (f10.trans h.buffers.1) (f11.trans h.buffers.2) f5 f3 f6 f7 (by rw [f15]; exact id)

/-- The advance of the position keeps it. -/
theorem held_advance {s : State} (h : Held s) : Held s.advance :=
    h.same rfl rfl rfl rfl rfl h.buffers.1 h.buffers.2 rfl rfl rfl rfl id

end Sys2Proof.Machine
end

