-- ==== Sys2Proof/Laws/PerInstr.lean ====
section
/-! SUPPORT. Statements for all instructions, one lemma per constructor. -/

namespace Sys2Proof.Laws.Length

/-- The encoding of a well-formed instruction has the length its row states (30_encoding.md R106). -/
def Statement (i : Instr) : Prop := ∀ cfg : Cfg, i.wf = true → (encode cfg i).length = i.byteLength

theorem openLink : Statement .openLink := fun _ _ => rfl
theorem desel : Statement .desel := fun _ _ => rfl
theorem sel (c : Int) : Statement (.sel c) := fun _ _ => rfl
theorem selc : Statement .selc := fun _ _ => rfl
theorem xcmd (k : Cmd) : Statement (.xcmd k) := fun _ _ => rfl
theorem xfetch : Statement .xfetch := fun _ _ => rfl
theorem convAngle (slot : Nat) : Statement (.convAngle slot) := fun _ _ => rfl
theorem emit : Statement .emit := fun _ _ => rfl
theorem rate : Statement .rate := fun _ _ => rfl
theorem arm : Statement .arm := fun _ _ => rfl
theorem dec : Statement .dec := fun _ _ => rfl
theorem xchg (tx : List Byte) : Statement (.xchg tx) := fun _ _ => Nat.add_comm _ _
theorem vloop : Statement .vloop := fun _ _ => rfl
theorem ginit : Statement .ginit := fun _ _ => rfl
theorem reservedOp0 (arg : Nibble) : Statement (.reservedOp0 arg) := fun _ _ => rfl
theorem reservedOpF (arg : Nibble) : Statement (.reservedOpF arg) := fun _ _ => rfl
theorem program (c : Int) : Statement (.program c) := fun _ _ => rfl
theorem readCount (c : Int) : Statement (.readCount c) := fun _ _ => rfl
theorem progch (c : Int) : Statement (.progch c) := fun _ _ => rfl
theorem pollch (c : Int) : Statement (.pollch c) := fun _ _ => rfl
theorem addr3 (p : Pattern) : Statement (.addr3 p) := fun _ _ => rfl
theorem cmdSelCtrl : Statement .cmdSelCtrl := fun _ _ => rfl
theorem cmdSetQuad : Statement .cmdSetQuad := fun _ _ => rfl
theorem cmdSetSec : Statement .cmdSetSec := fun _ _ => rfl
theorem cmdReadPos : Statement .cmdReadPos := fun _ _ => rfl
theorem fetch32 : Statement .fetch32 := fun _ _ => rfl
theorem rsp32 (a b c d : Byte) : Statement (.rsp32 a b c d) := fun _ _ => rfl

end Sys2Proof.Laws.Length
end

