-- ==== Sys2Proof/Laws/Position.lean ====
section
/-! SUPPORT. Lemmas for the facts that hold at the positions of the sequencer. -/

namespace Sys2Proof.Machine

/-- Results of a longer output. -/
theorem resultsIn_append (a b) : resultsIn (a ++ b) = resultsIn a + resultsIn b := by simp [resultsIn]

/-- The two ways an exchange on an admitted link ends. -/
theorem exchange_of_admitted {s : State} (ha : s.admitted = true) (tx) :
   (∃ k i t, exchange tx s = .error k i t ∧ t.HAZ = s.HAZ) ∨
   ∃ rx e out, rx.length = tx.length ∧ resultsIn out = 0 ∧ exchange tx s = .ok (some rx)
     { s with
       TXBUF := none, RXBUF := none, SENT := s.SENT + tx.length, RCVD := s.RCVD + tx.length,
       TRACE := s.TRACE ++ [.xfr s.A (some tx) (some rx)], OUT := s.OUT ++ out, ENV := e } := by
  have hp := State.present_of_admitted ha tx
  rcases exchange_cases tx s with ⟨e, i, -, h'⟩ | ⟨e, h'⟩ | ⟨e, ds, -, -, h'⟩ | ⟨e, ds, h'⟩ <;> rw [h']
  · exact .inl ⟨_, _, _, rfl, rfl⟩
  · right; refine ⟨(e.receive tx.length).1, (e.receive tx.length).2, [], by simp, rfl, ?_⟩
    simp [State.received, State.afterTransfer, hp]
  · right; refine ⟨(e.receive tx.length).1, (e.receive tx.length).2, [.integrity (.loopbackMismatch ds)], by simp,
      rfl, ?_⟩
    simp [State.received, State.afterTransfer, hp, State.emit]
  · exact .inl ⟨_, _, _, rfl, rfl⟩

/-- Noting no breach changes nothing. -/
theorem noteBreach_false (s : State) : s.noteBreach false = s := by simp [State.noteBreach]

/-- The two ways a command without a breach ends. -/
theorem xcmd_cases {s : State} {k : Cmd} (ha : s.admitted = true) (hb : s.commandBreach k = false) :
   (∃ kk i t, xcmdEffect k s = .error kk i t ∧ t.HAZ = s.HAZ) ∨
   ∃ rx e out, resultsIn out = 0 ∧ xcmdEffect k s = .ok () (
     let t : State := { s with
        TXBUF := none, RXBUF := none, SENT := s.SENT + 1, RCVD := s.RCVD + 1,
        TRACE := s.TRACE ++ [.xfr s.A (some [s.CFG.cmdByte k]) (some rx)], OUT := s.OUT ++ out, ENV := e }
     if k = .setSec then t.noteProgrammed else t) := by
  unfold xcmdEffect memWrite
  rw [hb, noteBreach_false]
  rcases exchange_of_admitted ha [s.CFG.cmdByte k] with ⟨k, i, t, h, h2⟩ | ⟨rx, e, out, hl, ho, h⟩ <;> rw [h]
  · exact .inl ⟨_, _, _, rfl, h2⟩
  · exact .inr ⟨rx, e, out, ho, rfl⟩

/-- The two ways a fetch without a breach ends. -/
theorem xfetch_cases {s : State} (ha : s.admitted = true) (hb : s.fetchBreach = false) :
   (∃ kk i t, xfetchEffect s = .error kk i t ∧ t.HAZ = s.HAZ) ∨
   ∃ rx e out, resultsIn out = 0 ∧ xfetchEffect s = .ok (be32 rx) 
     { s with
        TXBUF := none, RXBUF := none, CNT := some (be32 rx), SENT := s.SENT + 4, RCVD := s.RCVD + 4,
        TRACE := s.TRACE ++ [.xfr s.A (some s.CFG.fetchFrame) (some rx)], OUT := s.OUT ++ out, ENV := e } := by
  unfold xfetchEffect memRead
  rw [hb, noteBreach_false]
  rcases exchange_of_admitted ha (List.replicate 4 s.CFG.FILL) with ⟨k, i, t, h, h2⟩ | ⟨rx, e, out, hl, ho, h⟩ <;>
    rw [h]
  · exact .inl ⟨_, _, _, rfl, h2⟩
  · exact .inr ⟨rx, e, out, ho, rfl⟩

/-- A well-formed configuration has 1 to 6 channels. -/
theorem wf_channelCount {cfg : Cfg} (h : cfg.wf = true) : 1 ≤ cfg.N ∧ cfg.N ≤ 6 := ((Cfg.wf_iff cfg).mp h).1

/-- Each served number is a channel. -/
theorem exists_served {cfg : Cfg} (h : cfg.wf = true) {c : Nat} (h1 : 1 ≤ c) (h2 : c ≤ cfg.N) : ∃ ch, Chan.ofId (c :
    Int) = some ch ∧ ch.id = c := by
  have := wf_channelCount h
  obtain ⟨ch, hc⟩ := Chan.exists_ofId (c := c) ⟨by omega, by omega⟩
  exact ⟨ch, hc, (Chan.ofId_eq_some.mp hc).symm⟩

/-- Re-selecting the selected channel breaks no duty. -/
theorem otherSelected_eq_false_of_selected {s : State} {ch} (hw : s.CFG.wf = true) (h : s.A = s.CFG.pattern ch)
    : s.otherSelected ch = false := by
  rw [← Bool.not_eq_true, otherSelected_iff]
  rintro ⟨d, h1, hd⟩
  exact h1 (Cfg.pattern_inj hw (h.symm.trans hd)).symm

/-- A command breaks no duty when its channel is selected and its predecessor was sent. -/
theorem commandBreach_eq_false {s : State} {c k} (hw : s.CFG.wf = true) (hA : s.A = s.CFG.pattern c) (h : match k with
    | .selCtrl => True
    | .setQuad => (sentAt (s.CFG.pattern c) s.TRACE).getLast? = some (some [s.CFG.CMD_SEL_CTRL])
    | .setSec => (sentAt (s.CFG.pattern c) s.TRACE).getLast? = some (some [s.CFG.CMD_SET_QUAD])
    | .readPos => s.ENC.get c = .configured) : s.commandBreach k = false := by
  rw [← Bool.not_eq_true, commandBreach_iff hw, not_not]
  refine ⟨c, hA, ?_⟩
  cases k <;> simp [State.lastSent, hA] at h ⊢ <;> exact h

/-- The last entry is the first of the reversed ones. -/
theorem getLast_of_reverse_take {α} {l : List α} {n} {x : α} {xs} (h : l.reverse.take (n+1) = x :: xs) : l.getLast? =
    some x := by
  rw [List.getLast?_eq_head?_reverse]
  cases hl : l.reverse with
  | nil => rw [hl] at h; simp at h
  | cons a t => rw [hl] at h; simp at h; simp [h.1]

/-- A drive adds nothing to what was sent. -/
theorem sentTo_drv {s t : State} {c txs p} (h : s.sentTo c txs) (ht : t.TRACE = s.TRACE ++ [.drv p]) (hc : t.CFG =
    s.CFG) : t.sentTo c txs := by
  intro ch hch
  rw [hc, ht]; have := h ch hch
  simpa [sentAt] using this

/-- An exchange adds what it sent. -/
theorem sentAt_xfr (p tr b rx) : sentAt p (tr ++ [.xfr p (some b) rx]) = sentAt p tr ++ [some b] := by simp [sentAt]

/-- The configured channels depend on `ENC` only. -/
theorem configured_mono {s t : State} {c} (h : s.configuredUpTo c) (he : t.ENC = s.ENC) : t.configuredUpTo c := by
  intro ch hc; rw [he]; exact h ch hc

/-- The stored slots depend on `RES` only. -/
theorem stored_mono {s t : State} {c} (h : s.storedUpTo c) (he : t.RES = s.RES) : t.storedUpTo c := by
  intro ch hc; rw [he]; exact h ch hc

/-- A fetch right after its command breaks no duty. -/
theorem fetchBreach_eq_false {s : State} {ch} (hA : s.A = s.CFG.pattern ch) (h : s.readJustSent = true)
    : s.fetchBreach = false := by
  rw [← Bool.not_eq_true, fetchBreach_iff, not_not]
  have hb : s.fetchBreach = false := by
    unfold State.fetchBreach
    rw [h]
    have : (s.CFG.channelOf s.A).isNone = false := by
      rw [Option.isNone_eq_false_iff, Option.isSome_iff_ne_none, ne_eq, Cfg.channelOf_eq_none]
      intro hh; exact hh ch hA.symm
    rw [this]; rfl
  by_contra hn
  have := fetchBreach_iff.mpr hn
  rw [hb] at this; cases this

/-- What opening the link writes. -/
theorem opened_shape (s : State) (m v b) : ∃ l out, Link.OPENED l = true ∧ resultsIn out = 0 ∧ s.opened m v b =
    { s with LINK := l, OUT := s.OUT ++ out } := by
  unfold State.opened; dsimp only; split
  · exact ⟨{ s.LINK with OPENED := true, EFF := _ }, [], rfl, rfl, by simp; rfl⟩
  · exact ⟨{ s.LINK with OPENED := true, EFF := _, WARN := _ }, [.warning _], rfl, rfl, rfl⟩

end Sys2Proof.Machine
end

