-- ==== Sys2Proof/Laws/Sequence.lean ====
section
/-! SUPPORT. Operations issued one after the other: no operation reads the value its predecessor returned, so that a
pseudo-operation and its expansion can be compared effect by effect (30_encoding.md R108). -/

namespace Sys2Proof.Machine

/-- The same outcome, left with another returned value. -/
def Result.withRet {α : Type} (r : Result α) (v : Returned) : Result α :=
  match r with
  | .ok a t => .ok a { t with RET := v }
  | .error k i t => .error k i { t with RET := v }

@[simp] theorem takeError_withRet (s : State) (v : Returned) (k : ErrKind) (i : ErrInfo) :
    ({ s with RET := v } : State).takeError k i = s.takeError k i := by
  unfold State.takeError; rfl

@[simp] theorem Result.settle_withRet {α : Type} (r : Result α) (v : Returned) (ret : α → Returned) :
    (r.withRet v).settle ret = r.settle ret := by
  cases r <;> simp [Result.withRet]

/-- An effect that does not read the returned value. -/
def Blind {α : Type} (f : State → Result α) : Prop := ∀ s v, f { s with RET := v } = (f s).withRet v

theorem Blind.andThen {α β : Type} {f : State → Result α} {g : α → State → Result β} (hf : Blind f)
    (hg : ∀ a, Blind (g a)) : Blind fun s => (f s).andThen g := by
  intro s v
  simp only [hf s v]
  cases f s with
  | ok a t => exact hg a t v
  | error k i t => rfl

theorem blind_verifyLoop {α : Type} (tx rx : Option (List Byte)) (a : α) : Blind (verifyLoop tx rx a) := by
  intro s v
  have hl : ({ s with RET := v } : State).loopback = s.loopback := rfl
  have hs : ({ s with RET := v } : State).sequenced = s.sequenced := rfl
  simp only [verifyLoop, integrityOr, hl, hs]
  cases s.loopback <;> cases loopDiffs tx rx <;> cases s.sequenced <;> cases s.CFG.INTEGRITY_CONTINUE <;> rfl

theorem blind_exchange (tx : List Byte) : Blind (exchange tx) := by
  intro s v
  rcases h : s.ENV.transfer with ⟨a, e⟩
  cases a with
  | short => rw [exchange_short h, exchange_short (s := { s with RET := v }) h]; rfl
  | deviceError => rw [exchange_deviceError h, exchange_deviceError (s := { s with RET := v }) h]; rfl
  | done =>
    rw [exchange_done h, exchange_done (s := { s with RET := v }) h]
    exact blind_verifyLoop _ _ _ (s.afterTransfer tx e) v

theorem blind_xcmdEffect (k : Cmd) : Blind (xcmdEffect k) := by
  have h : Blind fun s => (exchange [s.CFG.cmdByte k] (s.noteBreach (s.commandBreach k))) := fun s v =>
    blind_exchange [s.CFG.cmdByte k] (s.noteBreach (s.commandBreach k)) v
  refine (h.andThen (g := fun _ t => .ok () t) fun _ _ _ => rfl).andThen fun _ t v => ?_
  split
  · simp only [State.noteProgrammed]
    cases t.CFG.channelOf t.A <;> cases programmedAt t.CFG t.A t.TRACE <;> rfl
  · rfl

theorem blind_xfetchEffect : Blind xfetchEffect :=
  Blind.andThen (f := fun s => exchange s.CFG.fetchFrame (s.noteBreach s.fetchBreach))
    (fun s v => blind_exchange s.CFG.fetchFrame (s.noteBreach s.fetchBreach) v) fun _ _ _ => rfl

theorem blind_selEffect (c : Int) : Blind (selEffect c) := by
  intro s v
  unfold selEffect
  cases Chan.ofId c <;> rfl

theorem blind_programEffect (c : Int) : Blind (programEffect c) := by
  have b : ∀ k, Blind (programBracket c k) := fun k =>
    (blind_selEffect c).andThen fun _ => (blind_xcmdEffect k).andThen fun _ _ _ => rfl
  intro s v
  unfold programEffect
  cases Chan.ofId c with
  | none => rfl
  | some ch => exact ((b _).andThen fun _ => (b _).andThen fun _ => b _) s v

theorem blind_readEffect (c : Int) : Blind (readEffect c) := by
  intro s v
  unfold readEffect
  cases Chan.ofId c with
  | none => rfl
  | some ch =>
    exact Blind.andThen (f := fun s => xcmdEffect .readPos (s.noteBreach (s.A != s.CFG.pattern ch)))
      (fun s v => blind_xcmdEffect .readPos (s.noteBreach (s.A != s.CFG.pattern ch)) v)
      (fun _ => blind_xfetchEffect) s v

theorem blind_convEffect (slot : Nat) : Blind (convEffect slot) := by
  intro s v
  unfold convEffect
  cases Chan.ofId slot <;> cases h : s.CNT <;> simp [h, Result.withRet]

/-- The operations of which expansions are made (30_encoding.md R108). -/
def isPart : Instr → Bool
  | .desel | .sel _ | .xcmd _ | .xfetch | .program _ | .readCount _ | .convAngle _ => true
  | _ => false

/-- The operations of the expansions do not read the value their predecessor returned. -/
theorem exec_withRet {i : Instr} (hi : isPart i = true) (s : State) (v : Returned) : exec i { s with RET := v } = exec i s := by
  cases i with
  | desel => rfl
  | sel c =>
    change guarded [s.inTerminal, ifValid c s.linesUnset] ((selEffect c { s with RET := v }).settle _) = _
    rw [blind_selEffect, Result.settle_withRet]; rfl
  | xcmd k =>
    change guarded [s.inTerminal, s.linkClosed, s.notAdmitted] ((xcmdEffect k { s with RET := v }).settle _) = _
    rw [blind_xcmdEffect, Result.settle_withRet]; rfl
  | xfetch =>
    change guarded [s.inTerminal, s.linkClosed, s.notAdmitted] ((xfetchEffect { s with RET := v }).settle _) = _
    rw [blind_xfetchEffect, Result.settle_withRet]; rfl
  | program c =>
    change guarded [s.inTerminal, ifValid c s.linesUnset, ifValid c s.linkClosed, ifValid c s.notAdmitted]
      ((programEffect c { s with RET := v }).settle _) = _
    rw [blind_programEffect, Result.settle_withRet]; rfl
  | readCount c =>
    change guarded [s.inTerminal, ifValid c s.linkClosed, ifValid c s.notAdmitted]
      ((readEffect c { s with RET := v }).settle _) = _
    rw [blind_readEffect, Result.settle_withRet]; rfl
  | convAngle sel =>
    change guarded [s.inTerminal, (s.slot sel == 0, .noChannelServed),
      ((Chan.ofId (s.slot sel)).isNone, .slotOutOfRange), (s.CNT.isNone, .nothingToConvert)]
      ((convEffect (s.slot sel) { s with RET := v }).settle _) = _
    rw [blind_convEffect, Result.settle_withRet]; rfl
  | _ => cases hi

/-- The rest is run after a value; an error ends the sequence. -/
def Result.follow {α : Type} (r : Result α) (ret : α → Returned) (rest : List Instr) : Outcome :=
  match r with
  | .ok v t => inSequence rest { t with RET := ret v }
  | .error k i t => .next (t.takeError k i)

@[simp] theorem Result.ok_follow {α : Type} (v : α) (t : State) (ret : α → Returned) (rest : List Instr) :
    (Result.ok v t).follow ret rest = inSequence rest { t with RET := ret v } := rfl

@[simp] theorem Result.error_follow {α : Type} (k : ErrKind) (i : ErrInfo) (t : State) (ret : α → Returned)
    (rest : List Instr) : (Result.error k i t).follow ret rest = .next (t.takeError k i) := rfl

/-- After an operation that completed, the rest is run, unless it ended in an error. -/
theorem inSequence_next {α : Type} {i : Instr} {rest : List Instr} {s : State} {r : Result α} {ret : α → Returned}
    (h : exec i s = .next (r.settle ret)) (hr : ∀ v, (ret v).fine) :
    inSequence (i :: rest) s = r.follow ret rest := by
  simp only [inSequence, h]
  cases r with
  | ok v t =>
    simp only [Result.ok_settle, Result.ok_follow]
    cases hv : ret v with
    | error k i => exact absurd hv (hr v k i)
    | _ => rfl
  | error k i t =>
    simp only [Result.error_settle, Result.error_follow]
    have : (t.takeError k i).RET = .error k i := by
      rcases takeError_cases t k i with ⟨-, e⟩ | ⟨-, e⟩ <;> rw [e]
    rw [this]

/-- A sequence does not read the value returned before it. -/
theorem inSequence_withRet {i : Instr} {rest : List Instr} (hi : isPart i = true) (s : State) (v : Returned) :
    inSequence (i :: rest) { s with RET := v } = inSequence (i :: rest) s := by
  simp only [inSequence, exec_withRet hi]

/-- A refused operation ends the sequence. -/
theorem inSequence_refused {i : Instr} {rest : List Instr} {s : State} {r : Refusal} (h : exec i s = .refused r) :
    inSequence (i :: rest) s = .refused r := by
  simp only [inSequence, h]

end Sys2Proof.Machine
end

