-- ==== Sys2Proof/Tests/Slice0.lean ====
section
/-! SUPPORT. Tests. Expected results are the vectors of 95_test_vectors.md (named in brackets) or read off the rule
named; a `witness_` theorem shows values that meet the hypotheses of the statement it names, clause by clause. -/

namespace Sys2Proof.Tests

open Sys2Proof.Machine

/-! Helpers. -/

/-- Something read from the next state. -/
def after {α : Type} (o : Outcome) (f : State → α) : Option α :=
  match o with
  | .next t => some (f t)
  | _ => none

/-- The refusal. -/
def refusal (o : Outcome) : Option Refusal :=
  match o with
  | .refused r => some r
  | _ => none

/-- `TESTCFG` with two channels and three cycles. -/
def cfg : Cfg := Config.testCfg 2 (some 3) 1000

/-- The effective values of `TESTCFG`, with a mode. -/
def eff (mode : ModeWord) : LinkParams := ⟨mode, 500000, 8, 0⟩

/-- Right after process start, the lines at a channel's pattern. -/
def start (c : Cfg) : State := State.resetWith c 0b000 (eff 0) Environment.unprepared

/-- A bench for hand-built operations: the link open with an effective mode, the lines outputs and idle, a harness
waiting. -/
def benchWith (c : Cfg) (mode : ModeWord) : State :=
  { start c with
    A := c.IDLE_PATTERN, GPIO_DIR := .outputs, REQS := [.call .desel],
    LINK := { OPENED := true, REQ := c.REQ, EFF := eff mode, WARN := none } }

/-- The bench for `TESTCFG` with mode 0. -/
def bench : State := benchWith cfg 0

/-- A state whose next transfers succeed and receive the given bytes. -/
def receiving (s : State) (n : Nat) (bytes : List Byte) : State :=
  { s with ENV := { s.ENV with transfers := List.replicate n .done, bytes := bytes } }

/-- A state with answers prepared for the driver's calls and read-backs. -/
def driven (s : State) (calls : List Bool) (reads : List (Option Nat)) : State :=
  { s with ENV := { s.ENV with calls := calls, reads := reads } }

/-- A state with a clock reading prepared. -/
def clocked (s : State) (now : Int) : State := { s with ENV := { s.ENV with clock := [now] } }

/-- A state with one request pending. -/
def asked (s : State) (format : Format) (operand : Int) (bytes : List Byte) : State :=
  { s with REQS := [.coded format operand bytes] }

/-- A state of the sequencer at a position. -/
def at_ (s : State) (phase : Phase) (ch step : Nat) : State :=
  { s with REQS := [], PHASE := phase, CH := ch, STEP := step }

/-! The checks of well-formedness refuse (30_encoding.md R98, R106, R108). -/

theorem wf_refuses_id_16 : (Instr.sel 16).wf = false := by decide
theorem wf_refuses_id_negative : (Instr.sel (-1)).wf = false := by decide
theorem wf_refuses_slot_7 : (Instr.convAngle 7).wf = false := by decide
theorem wf_refuses_16_bytes : (Instr.xchg (List.replicate 16 0)).wf = false := by decide
theorem wf_refuses_program_16 : (Instr.program 16).wf = false := by decide
theorem wf_refuses_progch_negative : (Instr.progch (-1)).wf = false := by decide
theorem wf_refuses_pollch_7 : (Instr.pollch 7).wf = false := by decide

/-! Decoding: a word of every constructor, written from 30_encoding.md (B7). -/

theorem test_decode_plain :
    decode [0b00010000] = .ok (.openLink, []) ∧ decode [0b00100000] = .ok (.desel, []) ∧
    decode [0b01000000] = .ok (.selc, []) ∧ decode [0b01100000] = .ok (.xfetch, []) ∧
    decode [0b10000000] = .ok (.emit, []) ∧ decode [0b10010000] = .ok (.rate, []) ∧
    decode [0b10100000] = .ok (.arm, []) ∧ decode [0b10110000] = .ok (.dec, []) ∧
    decode [0b11010000] = .ok (.vloop, []) ∧ decode [0b11100000] = .ok (.ginit, []) ∧
    decode [0b00001001] = .ok (.reservedOp0 9, []) ∧ decode [0b11110000] = .ok (.reservedOpF 0, []) :=
  ⟨rfl, rfl, rfl, rfl, rfl, rfl, rfl, rfl, rfl, rfl, rfl, rfl⟩

theorem test_decode_operands :
    decode [0x30] = .ok (.sel 0, []) ∧ decode [0x36] = .ok (.sel 6, []) ∧ decode [0x3F] = .ok (.sel 15, []) ∧
    decode [0x50] = .ok (.xcmd .selCtrl, []) ∧ decode [0x53] = .ok (.xcmd .readPos, []) ∧
    decode [0x70] = .ok (.convAngle 0, []) ∧ decode [0x76] = .ok (.convAngle 6, []) ∧
    decode [0xC0] = .ok (.xchg [], []) := ⟨rfl, rfl, rfl, rfl, rfl, rfl, rfl, rfl⟩

/-- The bytes after `0xCL` are data. -/
theorem test_decode_exchange : decode [0xC2, 0x10, 0xE0, 0x20] = .ok (.xchg [0x10, 0xE0], [0x20]) := rfl

theorem test_decode_reserved :
    decode [0x11] = .error (.reservedArg 1 1) ∧ decode [0x54] = .error (.reservedArg 5 4) ∧
    decode [0x77] = .error (.reservedArg 7 7) ∧ decode [0xEF] = .error (.reservedArg 14 15) ∧
    decode [0xC2, 0x10] = .error (.truncated 2 1) := ⟨rfl, rfl, rfl, rfl, rfl⟩

theorem test_decode_macros :
    decodePseudo 0 [0x33, 0x50, 0x20, 0x33, 0x51, 0x20, 0x33, 0x52, 0x20] = .ok (.program 3) ∧
    decodePseudo 5 [0x53, 0x60] = .ok (.readCount 5) ∧
    decodePseudo 0 [0x20, 0x31, 0x31, 0x50, 0x20, 0x31, 0x51, 0x20, 0x31, 0x52, 0x20, 0x20] = .ok (.progch 1) ∧
    decodePseudo 0 [0x36, 0x53, 0x60, 0x76, 0x20] = .ok (.pollch 6) ∧
    decodePseudo 0 [0x31, 0x53, 0x60, 0x72, 0x20] = .error .noExpansion := ⟨rfl, rfl, rfl, rfl, rfl⟩

theorem test_decode_frames :
    decodeAddr3 [0b010] = .ok (.addr3 0b010) ∧ decodeRsp32 [1, 2, 3, 4] = .ok (.rsp32 1 2 3 4) ∧
    decodeAs cfg (.cmd8 .selCtrl) 0 [0x88] = .ok (.cmdSelCtrl, []) ∧
    decodeAs cfg (.cmd8 .setQuad) 0 [0x03] = .ok (.cmdSetQuad, []) ∧
    decodeAs cfg (.cmd8 .setSec) 0 [0x00] = .ok (.cmdSetSec, []) ∧
    decodeAs cfg (.cmd8 .readPos) 0 [0x60] = .ok (.cmdReadPos, []) ∧
    decodeAs cfg .fetch32 0 [0, 0, 0, 0] = .ok (.fetch32, []) := ⟨rfl, rfl, rfl, rfl, rfl, rfl, rfl⟩

/-- Numbers of table rows: `SEL 5`, `XCHG 2` with two bytes above its word, `POLLCH 2`, `RSP32`, `ADDR3`. -/
theorem test_table_words :
    decodeTableWord 8 0x35 = some (.sel 5) ∧ decodeTableWord 24 0x3412C2 = some (.xchg [0x12, 0x34]) ∧
    decodeTableWord 40 0x3253607220 = some (.pollch 2) ∧ decodeTableWord 32 0x00001F40 = some (.rsp32 0 0 0x1F 0x40) ∧
    decodeTableWord 3 0b110 = some (.addr3 0b110) := ⟨rfl, rfl, rfl, rfl, rfl⟩

/-! Transport. -/

/-- [B1.2] -/
theorem test_open_warns :
    after (exec .openLink (driven (start cfg) [true, true, true, true] [some 0, some 488281, some 8]))
      (fun t => (t.LINK.OPENED, t.LINK.EFF, t.OUT)) =
    some (true, ⟨0, 488281, 8, 0⟩, [.warning ⟨0, 0, 500000, 488281, 8, 8⟩]) := by decide

/-- [B1.4] -/
theorem test_open_fails_at_speed_read :
    after (exec .openLink (driven { start cfg with REQS := [.call .desel] } [true, true, true] [some 0, none]))
      (fun t => (t.LINK.OPENED, t.RET, t.ENV.calls)) = some (false, .error .ioError (.readParam .speedHz), []) := by
  decide

/-- [B1.13] -/
theorem test_exchange_both_widths_multiple :
    after (exec (.xchg [0xAA]) (receiving (benchWith cfg 0x500) 1 [0x01])) (fun t => (t.RET, t.SENT, t.TRACE)) =
    some (.bytes none, 1, [.xfr 0b111 (some [0xAA]) none]) := by decide

/-- [R26: `LOOP` is bit 5, `RX_OCTAL` bit 14, bits 12 and 15 to 31 are requested as 0] -/
theorem test_packed_request :
    ({ LOOP := true, RX_OCTAL := true } : ModeFlags).word = 0x4020 ∧
    (⟨true, true, true, true, true, true, true, true, true, true, true, true, true, true⟩ : ModeFlags).word = 0x6FFF := by
  decide

/-- [B1.9] -/
theorem test_exchange_mismatch :
    after (exec (.xchg [0x12, 0x34]) (receiving (benchWith cfg 0x20) 1 [0x12, 0x35]))
      (fun t => (t.RET, t.SENT, t.RCVD, t.TRACE)) =
    some (.error .integrityError (.loopbackMismatch [⟨1, 0x34, 0x35⟩]), 2, 2,
      [.xfr 0b111 (some [0x12, 0x34]) (some [0x12, 0x35])]) := by decide

/-- [B1.12] -/
theorem test_exchange_receive_only :
    after (exec (.xchg [0xAA, 0xBB]) (receiving (benchWith cfg 0x800) 1 [0x01, 0x02]))
      (fun t => (t.RET, t.SENT, t.RCVD, t.TRACE)) =
    some (.bytes (some [0x01, 0x02]), 2, 2, [.xfr 0b111 none (some [0x01, 0x02])]) := by decide

/-- The bench after an exchange that received something else. -/
def mismatched (mode : ModeWord) : State :=
  { benchWith cfg mode with TRACE := [.xfr 0b111 (some [0x12, 0x34]) (some [0x13, 0x35]), .drv 0b000] }

/-- [B1.10] -/
theorem test_vloop_reports_every_difference :
    after (exec .vloop (mismatched 0x20)) (·.RET) =
    some (.error .integrityError (.loopbackMismatch [⟨0, 0x12, 0x13⟩, ⟨1, 0x34, 0x35⟩])) := by decide

/-- [A5: with loopback disabled a mismatch never triggers the check] -/
theorem test_vloop_without_loopback : after (exec .vloop (mismatched 0)) (·.RET) = some .ok := by decide

/-! Channel selection. -/

/-- [B2.1] -/
theorem test_ginit :
    after (exec .ginit (driven (start cfg) [true] [])) (fun t => (t.GPIO_DIR, t.TRACE)) = some (.outputs, [.gin]) := by
  decide

/-- [B6.3] -/
theorem test_ginit_fails_in_a_run :
    after (step (driven (at_ (start cfg) .setup 0 1) [false] []))
      (fun t => (t.PHASE, t.CH, t.STEP, t.FAULT, t.GPIO_DIR)) =
    some (.halted, 0, 1, some ⟨.ioError, 2, .gpioInit⟩, .unconfigured) := by decide

/-- [B2.7] -/
theorem test_select_over_another_channel :
    after (exec (.sel 4) { bench with A := 0b010 }) (fun t => (t.A, t.HAZ, t.TRACE)) =
    some (0b011, true, [.drv 0b011]) := by decide

/-- [A2] -/
theorem test_select_invalid :
    after (exec (.sel 7) { bench with A := 0b010 }) (fun t => (t.A, t.HAZ, t.TRACE, t.RET)) =
    some (0b010, false, [], .error .configurationError (.invalidChannel 7)) := by decide

/-- [B2.6] -/
theorem test_selc_again :
    after (exec .selc { bench with A := 0b010, CH := 3 }) (fun t => (t.A, t.HAZ, t.TRACE)) =
    some (0b010, false, [.drv 0b010]) := by decide

/-- [R262 (d)] -/
theorem test_selc_refused : refusal (exec .selc bench) = some .noChannelServed := by decide

/-- The other admissible idle level. -/
def lowIdle : Cfg := { cfg with IDLE_PATTERN := 0b000, SEL_TABLE := ⟨1, 2, 3, 4, 5, 6⟩ }

/-- [B2.10] -/
theorem test_deselect : after (exec .desel { benchWith lowIdle 0 with A := 0b011 }) (·.A) = some 0b000 := by decide

/-- [B2.3] -/
theorem test_deselect_refused : refusal (exec .desel (start cfg)) = some .linesNotOutputs := by decide

/-- [R91: in TESTCFG channel 3 is 010] -/
theorem test_address_word : after (exec (.addr3 0b010) bench) (fun t => (t.A, t.RET)) = some (0b010, .ok) := by decide

/-- [R105 (b): in TESTCFG 110 is unused] -/
theorem test_address_word_unused : refusal (exec (.addr3 0b110) bench) = some .unusedPattern := by decide

/-! Encoder commands. -/

/-- Channel 1 selected after its first two programming writes. -/
def halfProgrammed : State :=
  { bench with A := 0b000, TRACE := [.xfr 0b000 (some [0x88]) (some [0]), .xfr 0b000 (some [0x03]) (some [0])] }

/-- [B3.2] -/
theorem test_command_completes_programming :
    after (exec (.xcmd .setSec) (receiving halfProgrammed 1 [0x5A])) (fun t => (t.ENC.c1, t.HAZ, t.SENT)) =
    some (.configured, false, 1) := by decide

/-- [B3.3] -/
theorem test_command_out_of_order :
    after (exec (.xcmd .setQuad) (receiving { bench with A := 0b000 } 1 [0])) (fun t => (t.ENC.c1, t.HAZ, t.TRACE)) =
    some (.uninitialized, true, [.xfr 0b000 (some [0x03]) (some [0])]) := by decide

/-- [B3.1] -/
theorem test_frame_select_control :
    after (exec .cmdSelCtrl (receiving { bench with A := 0b000 } 1 [0])) (fun t => (t.TRACE, t.HAZ)) =
    some ([.xfr 0b000 (some [0x88]) (some [0])], false) := by decide

/-- [R157 (ii)] -/
theorem test_frame_set_quadrature :
    after (exec .cmdSetQuad
      (receiving { bench with A := 0b000, TRACE := [.xfr 0b000 (some [0x88]) (some [0])] } 1 [7])) (·.HAZ) =
    some false := by decide

/-- [B3.2] -/
theorem test_frame_set_secondary :
    after (exec .cmdSetSec (receiving halfProgrammed 1 [0x5A])) (·.ENC.c1) = some .configured := by decide

/-- [B3.5] -/
theorem test_frame_read_position :
    after (exec .cmdReadPos (receiving { bench with A := 0b000 } 1 [0])) (fun t => (t.HAZ, t.SENT)) =
    some (true, 1) := by decide

/-- Channel 2 selected, configured, its read command just sent. -/
def readSent : State :=
  { bench with A := 0b001, ENC := { bench.ENC with c2 := .configured }, TRACE := [.xfr 0b001 (some [0x60]) (some [0])] }

/-- [B3, the row that fixes the byte order] -/
theorem test_fetch_byte_order :
    after (exec .xfetch (receiving readSent 1 [1, 2, 3, 4])) (fun t => (t.CNT, t.HAZ, t.SENT)) =
    some (some 16909060, false, 4) := by decide

/-- [B3.13] -/
theorem test_fetch_after_another_event :
    after (exec .xfetch (receiving { readSent with TRACE := readSent.TRACE ++ [.drv 0b111, .drv 0b001] } 1 [0, 0, 0, 1]))
      (fun t => (t.CNT, t.HAZ)) = some (some 1, true) := by decide

/-- [R94] -/
theorem test_frame_fetch :
    after (exec .fetch32 (receiving readSent 1 [0, 0, 0x1F, 0x40])) (fun t => (t.CNT, t.TRACE.getLast?)) =
    some (some 8000, some (.xfr 0b001 (some [0, 0, 0, 0]) (some [0, 0, 0x1F, 0x40]))) := by decide

/-- [R93] -/
theorem test_frame_response :
    after (exec (.rsp32 0x80 0 0 0) readSent) (fun t => (t.CNT, t.ENV == readSent.ENV)) =
    some (some 2147483648, true) := by decide

/-- [B3.6] -/
theorem test_program :
    after (exec (.program 1) (receiving bench 3 [0, 0, 0])) (fun t => (t.A, t.ENC.c1, t.SENT, t.TRACE)) =
    some (0b111, .configured, 3,
      [.drv 0, .xfr 0 (some [0x88]) (some [0]), .drv 7, .drv 0, .xfr 0 (some [0x03]) (some [0]), .drv 7,
       .drv 0, .xfr 0 (some [0x00]) (some [0]), .drv 7]) := by decide

/-- [B3.8] -/
theorem test_program_fails :
    after (exec (.program 1) { bench with ENV := { bench.ENV with transfers := [.done, .deviceError], bytes := [0] } })
      (fun t => (t.A, t.ENC.c1, t.SENT, t.TRACE, t.RET)) =
    some (0b000, .uninitialized, 1, [.drv 0, .xfr 0 (some [0x88]) (some [0]), .drv 7, .drv 0],
      .error .ioError (.transferDevice 1)) := by decide

/-- Channel 2 selected and configured. -/
def readable : State := { bench with A := 0b001, ENC := { bench.ENC with c2 := .configured } }

/-- [B3.10] -/
theorem test_read :
    after (exec (.readCount 2) (receiving readable 2 [0, 0, 0, 0, 5])) (fun t => (t.RET, t.CNT, t.SENT, t.HAZ)) =
    some (.count 5, some 5, 5, false) := by decide

/-- [B3.12] -/
theorem test_read_does_not_select :
    after (exec (.readCount 2) (receiving { readable with A := 0b000 } 2 [0, 0, 0, 0, 5])) (fun t => (t.A, t.HAZ)) =
    some (0b000, true) := by decide

/-- [B3.15] -/
theorem test_convert :
    after (exec (.convAngle 3) { bench with CNT := some 8000 }) (fun t => (t.RES.c3, t.CNT)) =
    some (some (.f64 0x4076800000000000), none) := by decide +kernel

/-- [B3, the last row of the table] -/
theorem test_convert_largest :
    after (exec (.convAngle 0) { bench with CNT := some 0xFFFFFFFF, CH := 1 }) (·.RES.c1) =
    some (some (.f64 0x41A70A3D708CCCCD)) := by decide +kernel

/-! Polling loop and rate monitor. -/

/-- [B4.3] -/
theorem test_arm :
    after (exec .arm (clocked bench 1000)) (fun t => (t.CYC, t.LAST_T, t.SNAP_SENT)) = some (some 3, some 1000, 0) := by
  decide

/-- [B4.1] -/
theorem test_arm_once : after (exec .arm (clocked (benchWith (Config.testCfg 2 none 1000) 0) 0)) (·.CYC) = some (some 1) := by
  decide

/-- Two results stored. -/
def stored : State :=
  { bench with RES := { bench.RES with c1 := some (.f64 0), c2 := some (.f64 0x3FA70A3D70A3D70A) } }

/-- [A7, first cycle] -/
theorem test_emit :
    after (exec .emit stored) (·.OUT) = some [.result [.f64 0, .f64 0x3FA70A3D70A3D70A]] := by decide

/-- [B4.5] -/
theorem test_emit_refused :
    refusal (exec .emit { stored with RES := { stored.RES with c2 := none } }) = some .resultUnset := by decide

/-- [B4.4] -/
theorem test_count_down_to_done :
    after (step { at_ bench .polling 0 7 with CYC := some 1 }) (fun t => (t.CYC, t.PHASE, t.EXIT)) =
    some (some 0, .done, .exitedZero) := by decide

/-- [R262 (h)] -/
theorem test_count_down_refused : refusal (exec .dec bench) = some .noCycleLeft := by decide

/-- 36 bytes moved each way, the last report at time 0. -/
def moved : State := { bench with SENT := 36, RCVD := 36, LAST_T := some 0 }

/-- [B5.1] -/
theorem test_rate_at_the_interval :
    after (exec .rate (clocked moved 1000)) (fun t => (t.OUT, t.LAST_T, t.SNAP_SENT)) = some ([], some 0, 0) := by decide

/-- [B5.2] -/
theorem test_rate_past_the_interval :
    after (exec .rate (clocked moved 1001)) (fun t => (t.OUT, t.LAST_T, t.SNAP_SENT, t.SNAP_RCVD)) =
    some ([.report ⟨36, 125⟩ ⟨36, 125⟩], some 1001, 36, 36) := by decide

/-- [R108] -/
theorem test_progch :
    after (exec (.progch 2) (receiving { bench with A := 0b000 } 3 [0, 0, 0])) (fun t => (t.A, t.ENC.c2, t.HAZ)) =
    some (0b111, .configured, false) := by decide

/-- [R108; B3] -/
theorem test_pollch :
    after (exec (.pollch 2) (receiving { readable with A := 0b111 } 2 [0, 0, 0, 0, 5]))
      (fun t => (t.A, t.RES.c2, t.CNT, t.HAZ)) = some (0b111, some (.f64 0x3FCCCCCCCCCCCCCC), none, false) := by decide +kernel

/-! Reserved words, configurations, errors. -/

theorem test_reserved_words_refused :
    refusal (step (asked bench .mw8 0 [0x0A])) = some .reservedEncoding ∧
    refusal (step (asked bench .mw8 0 [0xFF])) = some .reservedEncoding := by decide

/-- [P8] -/
theorem test_ill_formed_configuration :
    after (step (start { cfg with IDLE_PATTERN := 0b000 })) (fun t => (t.PHASE, t.FAULT, t.TRACE, t.LINK.OPENED)) =
    some (.halted, some ⟨.configurationError, 1, .conflictingOptions [.idleNotInTable]⟩, [], false) := by decide

/-- [R261: the idle pattern must have its bits equal] -/
theorem test_configuration_conditions :
    cfg.wf = true ∧ lowIdle.wf = true ∧ (Config.testCfg 0 none 0).failures = [.channelCount, .interval] ∧
    { cfg with IDLE_PATTERN := 0b110 }.failures = [.idleBitsEqual] := by decide

/-! Witnesses of the hypotheses: encodings and steps. -/

theorem witness_StreamDecodeOfEncode :
    (Instr.format (.xchg (List.replicate 15 0xFF)) = .mw8 ∧ (Instr.xchg (List.replicate 15 0xFF)).wf = true) ∧
    (Instr.format (.sel 15) = .mw8 ∧ (Instr.sel 15).wf = true) ∧
    (Instr.format (.convAngle 6) = .mw8 ∧ (Instr.convAngle 6).wf = true) := by decide

theorem witness_FormatDecodeOfEncode :
    (Instr.pollch 6).wf = true ∧ (Instr.program 15).wf = true ∧ (Instr.progch 0).wf = true ∧
    (Instr.readCount (-1)).wf = true ∧ (Instr.addr3 7).wf = true := by decide

theorem witness_DecodedBytesAreEncodings :
    decodeAs cfg .mw8 0 [0xC2, 0x12, 0x34, 0xD0] = .ok (.xchg [0x12, 0x34], [0xD0]) ∧
    decodeAs cfg .addr3 0 [7] = .ok (.addr3 7, []) := ⟨rfl, rfl⟩

theorem witness_ReservedWordsAreRefused :
    (∀ w : Byte, (asked bench .mw8 0 [w]).REQS = .coded .mw8 0 (w :: []) :: []) ∧
    opOf 0x0F = 0x0 ∧ opOf 0xF0 = 0xF ∧ (opOf 0x54 = 0x5 ∧ 4 ≤ (argOf 0x54).toNat) ∧
    (opOf 0x77 = 0x7 ∧ 7 ≤ (argOf 0x77).toNat) ∧
    (opOf 0x11 ∈ [0x1, 0x2, 0x4, 0x6, 0x8, 0x9, 0xA, 0xB, 0xD, 0xE] ∧ argOf 0x11 ≠ 0) :=
  ⟨fun _ => rfl, by decide⟩

theorem witness_HarnessStepRunsTheDecodedInstruction :
    (∃ fmt operand bs rest, (asked bench .mw8 0 [0x20, 0x31]).REQS = .coded fmt operand bs :: [] ∧
      decodeAs cfg fmt operand bs = .ok (.desel, rest) ∧ [.coded .mw8 0 [0x31]] = restOf fmt operand rest) ∧
    bench.REQS = .call .desel :: [] := ⟨⟨_, _, _, _, rfl, rfl, rfl⟩, rfl⟩

theorem witness_SequencerStepRunsTheRomWord :
    let s := at_ bench .polling 2 1
    s.REQS = [] ∧ s.live ∧ ¬ (s.PHASE = .setup ∧ s.CH = 0 ∧ s.STEP = 0 ∧ s.CFG.wf = false) ∧
      romWord s.CFG.N s.PHASE s.CH s.STEP = some 0x53 ∧ decode [0x53] = .ok (.xcmd .readPos, []) :=
  ⟨rfl, ⟨by decide, by decide⟩, by decide, rfl, rfl⟩

theorem witness_RomHoldsTheSequence :
    1 ≤ 6 ∧ 6 ≤ 6 ∧ romWord 6 .programming 6 11 ≠ none ∧ romWord 6 .polling 6 4 ≠ none ∧
      romWord 6 .polling 0 7 ≠ none := by decide

theorem witness_AdvanceFollowsNext :
    (∃ s : State, s.PHASE = .setup ∧ s.CH = 0 ∧ s.STEP = 0) ∧
    (∃ s : State, s.PHASE = .setup ∧ s.CH = 0 ∧ s.STEP = 1) ∧
    (∃ s : State, s.PHASE = .programming ∧ s.STEP = 10 ∧ s.STEP ≤ 10) ∧
    (∃ s : State, s.PHASE = .programming ∧ s.STEP = 11 ∧ s.CH < s.CFG.N) ∧
    (∃ s : State, s.PHASE = .programming ∧ s.STEP = 11 ∧ s.CH = s.CFG.N) ∧
    (∃ s : State, s.PHASE = .ready ∧ s.CH = 0 ∧ s.STEP = 0) ∧
    (∃ s : State, s.PHASE = .polling ∧ 1 ≤ s.CH ∧ s.STEP = 3 ∧ s.STEP ≤ 3) ∧
    (∃ s : State, s.PHASE = .polling ∧ 1 ≤ s.CH ∧ s.STEP = 4 ∧ s.CH < s.CFG.N) ∧
    (∃ s : State, s.PHASE = .polling ∧ 1 ≤ s.CH ∧ s.STEP = 4 ∧ s.CH = s.CFG.N) ∧
    (∃ s : State, s.PHASE = .polling ∧ s.CH = 0 ∧ s.STEP = 5) ∧
    (∃ s : State, s.PHASE = .polling ∧ s.CH = 0 ∧ s.STEP = 6) ∧
    (∃ s : State, s.PHASE = .polling ∧ s.CH = 0 ∧ s.STEP = 7 ∧ s.CYC = some (0 + 1)) ∧
    (∃ s : State, s.PHASE = .polling ∧ s.CH = 0 ∧ s.STEP = 7 ∧ s.CYC = some 0) :=
  ⟨⟨at_ bench .setup 0 0, by decide⟩, ⟨at_ bench .setup 0 1, by decide⟩, ⟨at_ bench .programming 2 10, by decide⟩,
    ⟨at_ bench .programming 1 11, by decide⟩, ⟨at_ bench .programming 2 11, by decide⟩,
    ⟨at_ bench .ready 0 0, by decide⟩, ⟨at_ bench .polling 1 3, by decide⟩, ⟨at_ bench .polling 1 4, by decide⟩,
    ⟨at_ bench .polling 2 4, by decide⟩, ⟨at_ bench .polling 0 5, by decide⟩, ⟨at_ bench .polling 0 6, by decide⟩,
    ⟨{ at_ bench .polling 0 7 with CYC := some 1 }, by decide⟩,
    ⟨{ at_ bench .polling 0 7 with CYC := some 0 }, by decide⟩⟩

theorem witness_TerminalPhasesRunNothing : ¬ (at_ bench .done 0 0).live ∧ ¬ (at_ bench .halted 2 6).live :=
  ⟨fun h => h.1 rfl, fun h => h.2 rfl⟩

/-- The bench is in no terminal phase. -/
theorem bench_live : bench.live := ⟨by decide, by decide⟩

/-! Transport. -/

/-- The remaining answers of an opening. -/
def answers (calls : List Bool) (reads : List (Option Nat)) : Environment :=
  { (start cfg).ENV with calls := calls, reads := reads }

/-- Every driver call succeeds and the speed reads back as given. -/
def opening (speed : Nat) : State := driven (start cfg) [true, true, true, true] [some 0, some speed, some 8]

theorem witness_OpenNegotiatesTheLink :
    (opening 488281).live ∧ (opening 488281).LINK.OPENED = false ∧
    ∃ e1 e2 e3 e4 e5 e6 e7, (opening 488281).ENV.call = (true, e1) ∧ e1.call = (true, e2) ∧
      e2.read = (some (0 : ModeWord).toNat, e3) ∧ e3.call = (true, e4) ∧ e4.read = (some 488281, e5) ∧
      e5.call = (true, e6) ∧ e6.read = (some 8, e7) :=
  ⟨⟨by decide, by decide⟩, rfl, _, _, _, _, _, _, _, rfl, rfl, rfl, rfl, rfl, rfl, rfl⟩

theorem witness_OpenNegotiatesTheLink_clauses :
    ((0 : ModeWord) = (opening 500000).LINK.REQ.MODE.word ∧ 500000 = (opening 500000).LINK.REQ.SPEED_HZ ∧
      8 = (opening 500000).LINK.REQ.BPW) ∧
    ¬ ((0 : ModeWord) = (opening 488281).LINK.REQ.MODE.word ∧ 488281 = (opening 488281).LINK.REQ.SPEED_HZ ∧
      8 = (opening 488281).LINK.REQ.BPW) := by decide

theorem witness_OpenFailsAtTheFirstFailingCall :
    (∃ e1, (answers [false] []).call = (false, e1)) ∧
    (∃ e1 e2, (answers [true, false] []).call = (true, e1) ∧ e1.call = (false, e2)) ∧
    (∃ e1 e2 e3, (answers [true, true] [none]).call = (true, e1) ∧ e1.call = (true, e2) ∧ e2.read = (none, e3)) ∧
    (∃ e1 e2 e3 e4, (answers [true, true, false] [some 0]).call = (true, e1) ∧ e1.call = (true, e2) ∧
      e2.read = (some 0, e3) ∧ e3.call = (false, e4)) ∧
    (∃ e1 e2 e3 e4 e5, (answers [true, true, true] [some 0, none]).call = (true, e1) ∧ e1.call = (true, e2) ∧
      e2.read = (some 0, e3) ∧ e3.call = (true, e4) ∧ e4.read = (none, e5)) ∧
    (∃ e1 e2 e3 e4 e5 e6, (answers [true, true, true, false] [some 0, some 1]).call = (true, e1) ∧
      e1.call = (true, e2) ∧ e2.read = (some 0, e3) ∧ e3.call = (true, e4) ∧ e4.read = (some 1, e5) ∧
      e5.call = (false, e6)) ∧
    (∃ e1 e2 e3 e4 e5 e6 e7, (answers [true, true, true, true] [some 0, some 1, none]).call = (true, e1) ∧
      e1.call = (true, e2) ∧ e2.read = (some 0, e3) ∧ e3.call = (true, e4) ∧ e4.read = (some 1, e5) ∧
      e5.call = (true, e6) ∧ e6.read = (none, e7)) ∧
    (start cfg).live ∧ (start cfg).LINK.OPENED = false :=
  ⟨⟨_, rfl⟩, ⟨_, _, rfl, rfl⟩, ⟨_, _, _, rfl, rfl, rfl⟩, ⟨_, _, _, _, rfl, rfl, rfl, rfl⟩,
    ⟨_, _, _, _, _, rfl, rfl, rfl, rfl, rfl⟩, ⟨_, _, _, _, _, _, rfl, rfl, rfl, rfl, rfl, rfl⟩,
    ⟨_, _, _, _, _, _, _, rfl, rfl, rfl, rfl, rfl, rfl, rfl⟩, ⟨by decide, by decide⟩, rfl⟩

theorem witness_PresentBuffersFollowTheEffectiveMode :
    (benchWith cfg 0x120).loopback = true ∧
    ((benchWith cfg 0x100).loopback = false ∧ (benchWith cfg 0x100).txMulti = true ∧
      (benchWith cfg 0x100).rxMulti = false) ∧
    ((benchWith cfg 0x500).loopback = false ∧ (benchWith cfg 0x500).txMulti = true ∧
      (benchWith cfg 0x500).rxMulti = true) ∧
    ((benchWith cfg 0x4000).loopback = false ∧ (benchWith cfg 0x4000).txMulti = false ∧
      (benchWith cfg 0x4000).rxMulti = true) ∧
    (bench.loopback = false ∧ bench.txMulti = false ∧ bench.rxMulti = false) := by decide

theorem witness_ExchangeMovesAndCounts :
    let s := receiving (benchWith cfg 0x20) 1 [0x60]
    s.live ∧ s.LINK.OPENED = true ∧ (∃ e, s.ENV.moves [0x60].length [0x60] e) ∧ (s.loopback = true → [0x60] = [0x60]) :=
  ⟨⟨by decide, by decide⟩, rfl, ⟨_, rfl, rfl⟩, fun _ => rfl⟩

theorem witness_ExchangeMovesAndCounts_empty :
    let s := receiving (benchWith cfg 0x100) 1 []
    s.live ∧ s.LINK.OPENED = true ∧ (∃ e, s.ENV.moves 0 [] e) ∧ (s.loopback = true → ([] : List Byte) = []) :=
  ⟨⟨by decide, by decide⟩, rfl, ⟨_, rfl, rfl⟩, fun _ => rfl⟩

/-- The next transfer ends as given. -/
def failing (s : State) (a : TransferAnswer) : State := { s with ENV := { s.ENV with transfers := [a] } }

theorem witness_FailedTransferIsAnError :
    (let s := failing bench .short;
      s.live ∧ frameOf s.CFG .xfetch = some [0, 0, 0, 0] ∧ s.LINK.OPENED = true ∧
        (s.admitted = true ∨ Instr.xfetch = .xchg [0, 0, 0, 0]) ∧ (∃ e, s.ENV.transfer = (.short, e)) ∧
        TransferAnswer.short ≠ .done ∧ s.CFG.wf = true ∧ ¬ s.keepsDuty .xfetch) ∧
    (let s := failing (benchWith cfg 0x100) .deviceError;
      s.live ∧ frameOf s.CFG (.xchg []) = some [] ∧ s.LINK.OPENED = true ∧
        (s.admitted = true ∨ Instr.xchg [] = .xchg []) ∧ (∃ e, s.ENV.transfer = (.deviceError, e)) ∧
        TransferAnswer.deviceError ≠ .done ∧ s.keepsDuty (.xchg [])) := by
  refine ⟨⟨⟨by decide, by decide⟩, rfl, rfl, .inl rfl, ⟨_, rfl⟩, by decide, by decide, fun h => ?_⟩,
    ⟨⟨by decide, by decide⟩, rfl, rfl, .inr rfl, ⟨_, rfl⟩, by decide, ⟨nofun, nofun⟩⟩⟩
  obtain ⟨⟨c, hc⟩, -⟩ := h.2 rfl
  cases c <;> exact absurd hc (by decide)

theorem witness_LoopbackMismatchIsAnIntegrityError :
    (let s := receiving (benchWith cfg 0x20) 1 [0x02];
      s.live ∧ frameOf s.CFG (.xcmd .setQuad) = some [0x03] ∧ s.LINK.OPENED = true ∧ s.loopback = true ∧
        (∃ e, s.ENV.moves [(0x03 : Byte)].length [0x02] e) ∧ [(0x02 : Byte)] ≠ [0x03] ∧
        (s.REQS ≠ [] ∨ s.CFG.INTEGRITY_CONTINUE = false)) ∧
    let s := at_ (benchWith cfg 0x20) .programming 1 6
    s.REQS = [] ∧ s.CFG.INTEGRITY_CONTINUE = false :=
  ⟨⟨⟨by decide, by decide⟩, rfl, rfl, rfl, ⟨_, rfl, rfl⟩, by decide, .inl (by decide)⟩, rfl, rfl⟩

/-- A loopback sequencer that goes on after a mismatch. -/
def continuing (s : State) (step : Nat) (bytes : List Byte) : State :=
  receiving (at_ { s with CFG := { cfg with INTEGRITY_CONTINUE := true }, LINK := (benchWith cfg 0x20).LINK }
    .programming 1 step) 1 bytes

theorem witness_IntegrityErrorContinues :
    (let s := continuing halfProgrammed 9 [0x5A];
      s.live ∧ frameOf s.CFG (.xcmd .setSec) = some [0x00] ∧ (s.CFG.wf = true ∨ Instr.xcmd .setSec = .xchg [0x00]) ∧
        s.LINK.OPENED = true ∧ s.loopback = true ∧ s.REQS = [] ∧ s.CFG.INTEGRITY_CONTINUE = true ∧
        (∃ e, s.ENV.moves [(0x00 : Byte)].length [0x5A] e) ∧ [(0x5A : Byte)] ≠ [0x00] ∧
        (false = true ↔ s.HAZ = true ∨ ¬ s.keepsDuty (.xcmd .setSec)) ∧
        ∀ c, (s.ENC.set .c1 .configured).get c = .configured ↔ s.ENC.get c = .configured ∨
          ((Instr.xcmd .setSec).command = some .setSec ∧ s.A = s.CFG.pattern c ∧
            (sentAt s.A s.TRACE).reverse.take 2 = [some [s.CFG.CMD_SET_QUAD], some [s.CFG.CMD_SEL_CTRL]])) ∧
    (let s := continuing bench 3 [1, 2, 3, 4];
      s.live ∧ frameOf s.CFG .xfetch = some [0, 0, 0, 0] ∧ s.CFG.wf = true ∧ s.LINK.OPENED = true ∧ s.loopback = true ∧
        (∃ e, s.ENV.moves 4 [1, 2, 3, 4] e) ∧ [(1 : Byte), 2, 3, 4] ≠ [0, 0, 0, 0] ∧
        (true = true ↔ s.HAZ = true ∨ ¬ s.keepsDuty .xfetch) ∧
        ∀ c, s.ENC.get c = .configured ↔ s.ENC.get c = .configured ∨
          (Instr.xfetch.command = some .setSec ∧ s.A = s.CFG.pattern c ∧
            (sentAt s.A s.TRACE).reverse.take 2 = [some [s.CFG.CMD_SET_QUAD], some [s.CFG.CMD_SEL_CTRL]])) ∧
    (Instr.xchg [0x03] = .xchg [0x03] ∧ frameOf cfg (.xchg [0x03]) = some [0x03]) := by
  refine ⟨⟨⟨by decide, by decide⟩, rfl, .inl (by decide), rfl, rfl, rfl, rfl, ⟨_, rfl, rfl⟩, by decide, ⟨nofun, ?_⟩,
      fun c => ?_⟩,
    ⟨⟨by decide, by decide⟩, rfl, by decide, rfl, rfl, ⟨_, rfl, rfl⟩, by decide, ⟨fun _ => .inr ?_, fun _ => rfl⟩,
      fun c => by cases c <;> decide⟩, rfl, rfl⟩
  · rintro (h | h)
    · exact h
    · refine absurd ⟨fun k hk => ?_, nofun⟩ h
      cases hk
      exact ⟨.c1, rfl, rfl⟩
  · cases c <;> decide
  · intro h
    obtain ⟨⟨c, hc⟩, -⟩ := h.2 rfl
    cases c <;> exact absurd hc (by decide)

/-- [R227] -/
theorem test_continued_command :
    after (exec (.xcmd .setSec) (continuing halfProgrammed 9 [0x5A])) (fun t => (t.RET, t.ENC.c1, t.FAULT, t.OUT)) =
    some (.ok, .configured, none, [.integrity (.loopbackMismatch [⟨0, 0x00, 0x5A⟩])]) := by decide

theorem witness_VloopComparesTheLatestExchange :
    let after : List BusEvent := [.drv 0b000]
    (mismatched 0).live ∧ (mismatched 0).TRACE = [] ++ .xfr 0b111 (some [0x12, 0x34]) (some [0x13, 0x35]) :: after ∧
      (∀ a' tx' rx', BusEvent.xfr a' tx' rx' ∉ after) ∧ (mismatched 0).loopback = false ∧
      (some [(0x60 : Byte)] = some [0x60]) ∧ ((mismatched 0x20).loopback = true ∧ [(0x12 : Byte), 0x34] ≠ [0x13, 0x35] ∧
        [(0x12 : Byte), 0x34].length = [(0x13 : Byte), 0x35].length ∧ (mismatched 0x20).REQS ≠ []) :=
  ⟨⟨by decide, by decide⟩, rfl, by simp, rfl, rfl, rfl, by decide, rfl, by decide⟩

/-! Channel selection. -/

theorem witness_GinitMakesTheLinesOutputs :
    (start cfg).live ∧ (∃ e, (driven (start cfg) [true] []).ENV.call = (true, e)) ∧
      ∃ e, (driven (start cfg) [false] []).ENV.call = (false, e) := ⟨⟨by decide, by decide⟩, ⟨_, rfl⟩, ⟨_, rfl⟩⟩

theorem witness_SelectDrivesTheTableEntry :
    (bench.live ∧ bench.GPIO_DIR = .outputs ∧ (false = true ↔ bench.HAZ = true ∨ bench.holdsOther .c1)) ∧
    (let s := { bench with A := 0b100 };
      s.live ∧ s.GPIO_DIR = .outputs ∧ (true = true ↔ s.HAZ = true ∨ s.holdsOther .c6)) := by
  refine ⟨⟨bench_live, rfl, ⟨nofun, ?_⟩⟩, ⟨by decide, by decide⟩, rfl, ⟨fun _ => .inr ⟨.c5, by decide, rfl⟩, fun _ => rfl⟩⟩
  rintro (h | ⟨d, -, h⟩)
  · exact h
  · cases d <;> exact absurd h (by decide)

theorem witness_SelectDrivesTheTableEntry_stops :
    15 ≤ 15 ∧ (start cfg).live ∧ ¬ validId 0 ∧ ¬ validId 7 ∧ validId 1 ∧ validId 6 ∧
      (start cfg).GPIO_DIR = .unconfigured :=
  ⟨by decide, ⟨by decide, by decide⟩, fun h => absurd h.1 (by decide), fun h => absurd h.2 (by decide),
    ⟨by decide, by decide⟩, ⟨by decide, by decide⟩, rfl⟩

theorem witness_InvalidChannelIsAConfigurationError :
    (start cfg).live ∧ ¬ validId 0 ∧ ¬ validId 7 ∧ ¬ validId (-1) :=
  ⟨⟨by decide, by decide⟩, fun h => absurd h.1 (by decide), fun h => absurd h.2 (by decide), fun h => absurd h.1 (by decide)⟩

theorem witness_SelcIsSelectOfTheServedChannel :
    (bench.live ∧ bench.CH = 0) ∧
    let s := { bench with CH := 6 }
    s.live ∧ s.CH ≠ 0 ∧ (s.CH : Int) = Chan.c6.id ∧ s.GPIO_DIR = .outputs ∧
      (false = true ↔ s.HAZ = true ∨ s.holdsOther .c6) := by
  refine ⟨⟨bench_live, rfl⟩, ⟨by decide, by decide⟩, by decide, rfl, rfl, ⟨nofun, ?_⟩⟩
  rintro (h | ⟨d, -, h⟩)
  · exact h
  · cases d <;> exact absurd h (by decide)

/-- The sequencer about to select the channel it programs. -/
theorem selcStep_SequencerInv : SequencerInv (at_ bench .programming 1 1) where
  alone := rfl
  noBreach := rfl
  noFault := fun _ => rfl
  position := by
    refine ⟨⟨by decide, rfl, rfl⟩, rfl, rfl, by decide, by decide, ?_, rfl, rfl⟩
    intro c h
    cases c <;> exact absurd h (by decide)

theorem witness_SelcIsSelectOfTheServedChannel_run :
    let s := at_ bench .programming 1 1
    SequencerInv s ∧ romWord s.CFG.N s.PHASE s.CH s.STEP = some 0x40 := ⟨selcStep_SequencerInv, rfl⟩

theorem witness_DeselectDrivesTheIdlePattern :
    (bench.live ∧ bench.GPIO_DIR = .outputs) ∧ (start cfg).live ∧ (start cfg).GPIO_DIR = .unconfigured :=
  ⟨⟨bench_live, rfl⟩, ⟨by decide, by decide⟩, rfl⟩

theorem witness_AddressWordSelectsByPattern :
    let s := { bench with HAZ := true }
    s.live ∧ s.GPIO_DIR = .outputs ∧ s.CFG.wf = true ∧ (true = true ↔ s.HAZ = true ∨ s.holdsOther .c1) ∧
      ((0b110 : Pattern) ≠ s.CFG.IDLE_PATTERN ∧ ∀ c, (0b110 : Pattern) ≠ s.CFG.SEL_TABLE.get c) :=
  ⟨⟨by decide, by decide⟩, rfl, by decide, ⟨fun _ => .inl rfl, fun _ => rfl⟩, by decide, fun c => by cases c <;> decide⟩

theorem witness_SelectionIsExclusive :
    let s' := { bench with A := 0b010, HAZ := true }
    bench.CFG.wf = true ∧ s'.CFG = bench.CFG ∧ s'.A ≠ bench.A ∧
      ((∃ t, exec (.sel Chan.c6.id) bench = .next t) ∧ ∃ t, exec (.sel Chan.c6.id) s' = .next t) ∧
      (∃ t, exec .desel bench = .next t) ∧ ∃ t, exec .desel s' = .next t :=
  ⟨by decide, rfl, by decide, ⟨⟨_, rfl⟩, ⟨_, rfl⟩⟩, ⟨_, rfl⟩, ⟨_, rfl⟩⟩

/-! Encoder commands. -/

theorem witness_CommandSendsOneByte :
    let s := receiving halfProgrammed 1 [0x5A]
    (Instr.cmdSetSec = .xcmd .setSec ∨ Instr.cmdSetSec = Cmd.setSec.frame) ∧ s.live ∧ s.CFG.wf = true ∧
      s.LINK.OPENED = true ∧ s.admitted = true ∧ (∃ e, s.ENV.moves 1 [0x5A] e) ∧
      (s.loopback = true → [(0x5A : Byte)] = [s.CFG.cmdByte .setSec]) ∧
      (false = true ↔ s.HAZ = true ∨ ¬ s.commandDuty .setSec) ∧
      ∀ c, (s.ENC.set .c1 .configured).get c = .configured ↔ s.ENC.get c = .configured ∨
        (Cmd.setSec = .setSec ∧ s.A = s.CFG.pattern c ∧
          (sentAt s.A s.TRACE).reverse.take 2 = [some [s.CFG.CMD_SET_QUAD], some [s.CFG.CMD_SEL_CTRL]]) := by
  refine ⟨.inr rfl, ⟨by decide, by decide⟩, by decide, rfl, rfl, ⟨_, rfl, rfl⟩, by decide, ⟨nofun, ?_⟩, fun c => ?_⟩
  · rintro (h | h)
    · exact h
    · exact absurd ⟨.c1, rfl, rfl⟩ h
  · cases c <;> decide

theorem witness_CommandSendsOneByte_duties :
    (¬ bench.commandDuty .selCtrl) ∧ (¬ (State.commandDuty { bench with A := 0b000 } .setQuad)) ∧
    (¬ (State.commandDuty { bench with A := 0b000 } .readPos)) ∧ State.commandDuty readable .readPos := by
  refine ⟨?_, ?_, ?_, .c2, rfl, rfl⟩
  · rintro ⟨c, h, -⟩
    cases c <;> exact absurd h (by decide)
  · rintro ⟨c, -, h⟩
    have h : (none : Option (Option (List Byte))) = some (some [0x88]) := h
    cases h
  · rintro ⟨c, -, h⟩
    have h : bench.ENC.get c = .configured := h
    cases c <;> exact absurd h (by decide)

theorem witness_FetchAssemblesTheCounter :
    let s := receiving readSent 1 [0xFF, 0, 0, 1]
    (Instr.fetch32 = .xfetch ∨ Instr.fetch32 = .fetch32) ∧ s.live ∧ s.LINK.OPENED = true ∧ s.admitted = true ∧
      (∃ e, s.ENV.moves 4 [0xFF, 0, 0, 1] e) ∧ (s.loopback = true → [0xFF, 0, 0, 1] = s.CFG.fetchFrame) ∧
      (false = true ↔ s.HAZ = true ∨ ¬ s.fetchDuty) := by
  refine ⟨.inr rfl, ⟨by decide, by decide⟩, rfl, rfl, ⟨_, rfl, rfl⟩, by decide, nofun, ?_⟩
  rintro (h | h)
  · exact h
  · exact absurd ⟨⟨.c2, rfl⟩, [], some [0], rfl⟩ h

theorem witness_ResponseFrameIsTheCounter :
    readSent.live ∧ readSent.LINK.OPENED = true ∧ readSent.admitted = true ∧
      (readSent.loopback = true → [0x80, 0, 0, 0] = readSent.CFG.fetchFrame) ∧
      (false = true ↔ readSent.HAZ = true ∨ ¬ readSent.fetchDuty) := by
  refine ⟨⟨by decide, by decide⟩, rfl, rfl, by decide, nofun, ?_⟩
  rintro (h | h)
  · exact h
  · exact absurd ⟨⟨.c2, rfl⟩, [], some [0], rfl⟩ h

theorem witness_CounterIsBigEndianUnsigned :
    let s := receiving readSent 1 [0x80, 0, 0, 1]
    s.live ∧ s.LINK.OPENED = true ∧ s.admitted = true ∧ (∃ e, s.ENV.moves 4 [0x80, 0, 0, 1] e) ∧ s.loopback = false :=
  ⟨⟨by decide, by decide⟩, rfl, rfl, ⟨_, rfl, rfl⟩, rfl⟩

/-- The commands and the fill bytes of a loopback bench, received as sent. -/
theorem witness_ProgramWritesThreeRegisters :
    let s := receiving { benchWith cfg 0x20 with HAZ := true } 3 [0x88, 0x03, 0x00]
    s.live ∧ s.CFG.wf = true ∧ s.GPIO_DIR = .outputs ∧ s.LINK.OPENED = true ∧ s.admitted = true ∧
      (∃ e1 e2 e3, s.ENV.moves 1 [0x88] e1 ∧ e1.moves 1 [0x03] e2 ∧ e2.moves 1 [0x00] e3) ∧
      (s.loopback = true → [0x88] = [s.CFG.CMD_SEL_CTRL] ∧ [0x03] = [s.CFG.CMD_SET_QUAD] ∧ [0x00] = [s.CFG.CMD_SET_SEC]) ∧
      (true = true ↔ s.HAZ = true ∨ s.holdsOther .c6) :=
  ⟨⟨by decide, by decide⟩, by decide, rfl, rfl, rfl, ⟨_, _, _, ⟨rfl, rfl⟩, ⟨rfl, rfl⟩, ⟨rfl, rfl⟩⟩, by decide,
    ⟨fun _ => .inl rfl, fun _ => rfl⟩⟩

/-- The next transfers succeed, receiving zeros, and then one fails. -/
def failingAfter (s : State) (n : Nat) (a : TransferAnswer) : State :=
  { s with ENV := { s.ENV with transfers := List.replicate n .done ++ [a], bytes := List.replicate n 0 } }

theorem witness_PseudoOperationsEndAtTheFirstError_ids :
    (bench.live ∧ ¬ validId 7 ∧ ¬ validId 0 ∧ bench.GPIO_DIR = .outputs) ∧
    ((6 : Int) = Chan.c6.id ∧ (true = true ↔ bench.HAZ = true ∨ bench.A ≠ bench.CFG.SEL_TABLE.get .c6)) :=
  ⟨⟨bench_live, fun h => absurd h.2 (by decide), fun h => absurd h.1 (by decide), rfl⟩, rfl, by decide⟩

theorem witness_PseudoOperationsEndAtTheFirstError_program :
    let s := failingAfter { bench with HAZ := true }
    (∀ n a, (s n a).live ∧ (s n a).CFG.wf = true ∧ (s n a).GPIO_DIR = .outputs ∧ (s n a).LINK.OPENED = true ∧
      (s n a).admitted = true ∧
      ((s n a).loopback = true → [0] = [(s n a).CFG.CMD_SEL_CTRL] ∧ [0] = [(s n a).CFG.CMD_SET_QUAD]) ∧
      (true = true ↔ (s n a).HAZ = true ∨ (s n a).holdsOther .c1)) ∧
      TransferAnswer.short ≠ .done ∧ TransferAnswer.deviceError ≠ .done ∧
      (∃ e, (s 0 .short).ENV.transfer = (.short, e)) ∧
      (∃ e1 e, (s 1 .deviceError).ENV.moves 1 [0] e1 ∧ e1.transfer = (.deviceError, e)) ∧
      ∃ e1 e2 e, (s 2 .deviceError).ENV.moves 1 [0] e1 ∧ e1.moves 1 [0] e2 ∧ e2.transfer = (.deviceError, e) :=
  ⟨fun _ _ => ⟨bench_live, (by decide : cfg.wf = true), rfl, rfl, (by decide : bench.admitted = true),
      fun h => absurd h (by decide : ¬ bench.loopback = true), fun _ => .inl rfl, fun _ => rfl⟩,
    by decide, by decide, ⟨_, rfl⟩, ⟨_, _, ⟨rfl, rfl⟩, rfl⟩, _, _, _, ⟨rfl, rfl⟩, ⟨rfl, rfl⟩, rfl⟩

theorem witness_PseudoOperationsEndAtTheFirstError_read :
    let s := failingAfter readable
    (∀ n a, (s n a).live ∧ (s n a).CFG.wf = true ∧ (s n a).LINK.OPENED = true ∧ (s n a).admitted = true ∧
      ((s n a).loopback = true → [0] = [(s n a).CFG.CMD_READ_POS]) ∧
      (false = true ↔ (s n a).HAZ = true ∨ (s n a).A ≠ (s n a).CFG.SEL_TABLE.get .c2 ∨
        (s n a).ENC.get .c2 = .uninitialized)) ∧
      (∃ e, (s 0 .deviceError).ENV.transfer = (.deviceError, e)) ∧
      ∃ e1 e, (s 1 .short).ENV.moves 1 [0] e1 ∧ e1.transfer = (.short, e) :=
  ⟨fun _ _ => ⟨bench_live, (by decide : cfg.wf = true), rfl, (by decide : bench.admitted = true),
      fun h => absurd h (by decide : ¬ bench.loopback = true),
      (by decide : false = true ↔ readable.HAZ = true ∨ readable.A ≠ readable.CFG.SEL_TABLE.get .c2 ∨
        readable.ENC.get .c2 = .uninitialized)⟩,
    ⟨_, rfl⟩, _, _, ⟨rfl, rfl⟩, rfl⟩

theorem witness_ReadFetchesThePosition :
    let s := receiving readable 2 [0, 0, 0, 0, 5]
    s.live ∧ s.CFG.wf = true ∧ s.LINK.OPENED = true ∧ s.admitted = true ∧
      (∃ e1 e2, s.ENV.moves 1 [0] e1 ∧ e1.moves 4 [0, 0, 0, 5] e2) ∧
      (s.loopback = true → [0] = [s.CFG.CMD_READ_POS] ∧ [0, 0, 0, 5] = s.CFG.fetchFrame) ∧
      (false = true ↔ s.HAZ = true ∨ s.A ≠ s.CFG.SEL_TABLE.get .c2 ∨ s.ENC.get .c2 = .uninitialized) :=
  ⟨⟨by decide, by decide⟩, by decide, rfl, rfl, ⟨_, _, ⟨rfl, rfl⟩, ⟨rfl, rfl⟩⟩, by decide, by decide⟩

theorem witness_ConvStoresTheAngle :
    (let s := { bench with CH := 6, CNT := some 0xFFFFFFFF };
      s.live ∧ (if 0 = 0 then (s.CH : Int) else (0 : Nat)) = Chan.c6.id ∧ s.CNT = some 0xFFFFFFFF) ∧
    (let s := { bench with CNT := some 0 };
      s.live ∧ (if 1 = 0 then (s.CH : Int) else (1 : Nat)) = Chan.c1.id ∧ s.CNT = some 0) :=
  ⟨⟨⟨by decide, by decide⟩, rfl, rfl⟩, ⟨by decide, by decide⟩, rfl, rfl⟩

theorem witness_ConvStoresTheAngle_stops :
    (bench.live ∧ (if 0 = 0 then (bench.CH : Int) else (0 : Nat)) = 0) ∧
    ((if 7 = 0 then (bench.CH : Int) else (7 : Nat)) > 6) ∧
    (validId (if 6 = 0 then (bench.CH : Int) else (6 : Nat)) ∧ bench.CNT = none) ∧ 6 ≤ 6 :=
  ⟨⟨bench_live, rfl⟩, by decide, ⟨⟨by decide, by decide⟩, rfl⟩, by decide⟩

theorem witness_AngleFunctionsKeepTheirLaws :
    (cfg.ANGLE_FN = .binary64 ∧ cfg.SCALE = .rational { num := 9, den := 200 } ∧
      (5 : Count32).toNat ≤ (8000 : Count32).toNat) ∧
    (let c := { cfg with ANGLE_FN := .exactProduct }; c.ANGLE_FN ≠ .binary64 ∧ c.SCALE = .rational { num := 9, den := 200 }) ∧
    (let c := { cfg with ANGLE_FN := .uninterpreted, SCALE := .irrational (-5) 0 };
      c.ANGLE_FN ≠ .binary64 ∧ c.SCALE = .irrational (-5) 0) := by decide

/-- [R167: 5 counts are 0.225 degrees, 8000 are 360; the counter times the scale, whatever the scale] -/
theorem test_exact_angles :
    (let c := { cfg with ANGLE_FN := .exactProduct };
      angleOf c 5 = .rational ⟨9, 40⟩ ∧ angleOf c 8000 = .rational ⟨360, 1⟩) ∧
    let c := { cfg with ANGLE_FN := .exactProduct, SCALE := .irrational (-5) 0 }
    angleOf c 0 = .rational ⟨0, 1⟩ ∧ angleOf c 5 = .multiple ⟨5, 1⟩ (-5) 0 := by decide

/-! Polling and the rate monitor. -/

theorem witness_ArmLoadsTheCycleCount : bench.live ∧ ∃ e, (clocked bench 1000).ENV.now = (1000, e) := ⟨bench_live, _, rfl⟩

theorem witness_EmitReportsAllAngles :
    stored.live ∧ (Chan.all.take stored.CFG.N).map stored.RES.get = [Angle.f64 0, .f64 0x3FA70A3D70A3D70A].map some :=
  ⟨⟨by decide, by decide⟩, rfl⟩

theorem witness_EmitReportsAllAngles_unset :
    bench.live ∧ ∃ c ∈ Chan.all.take bench.CFG.N, bench.RES.get c = none := ⟨bench_live, .c2, by decide, rfl⟩

theorem witness_DecCountsDown :
    bench.live ∧ (State.CYC { bench with CYC := some 1 }) = some (0 + 1) ∧ bench.CYC = none ∧
      (State.CYC { bench with CYC := some 0 }) = some 0 := ⟨bench_live, rfl, rfl, rfl⟩

theorem witness_RateReportsAfterTheInterval :
    (bench.live ∧ bench.LAST_T = none) ∧ moved.live ∧ moved.LAST_T = some 0 ∧ (∃ e, (clocked moved 1001).ENV.now = (1001, e)) ∧
      (∃ e, (clocked moved 1000).ENV.now = (1000, e)) ∧ (1001 : Int) - 0 > moved.CFG.INTERVAL_MS ∧
      ¬ (1000 : Int) - 0 > moved.CFG.INTERVAL_MS :=
  ⟨⟨bench_live, rfl⟩, ⟨by decide, by decide⟩, rfl, ⟨_, rfl⟩, ⟨_, rfl⟩, by decide, by decide⟩

/-- [B5.7] -/
theorem witness_RateIsTheExactQuotient : (0 : Int) < 3 ∧ rateKbps 1 0 3 = ⟨8, 3⟩ := by decide

theorem witness_ProgchProgramsOneChannel :
    let s := receiving bench 3 [1, 2, 3]
    s.live ∧ s.CFG.wf = true ∧ s.GPIO_DIR = .outputs ∧ s.LINK.OPENED = true ∧ s.admitted = true ∧
      (∃ e1 e2 e3, s.ENV.moves 1 [1] e1 ∧ e1.moves 1 [2] e2 ∧ e2.moves 1 [3] e3) ∧
      (s.loopback = true → [1] = [s.CFG.CMD_SEL_CTRL] ∧ [2] = [s.CFG.CMD_SET_QUAD] ∧ [3] = [s.CFG.CMD_SET_SEC]) :=
  ⟨⟨by decide, by decide⟩, by decide, rfl, rfl, rfl, ⟨_, _, _, ⟨rfl, rfl⟩, ⟨rfl, rfl⟩, ⟨rfl, rfl⟩⟩, by decide⟩

theorem witness_PollchReadsOneChannel :
    let s := receiving bench 2 [0, 0, 0, 0x1F, 0x40]
    s.live ∧ s.CFG.wf = true ∧ s.GPIO_DIR = .outputs ∧ s.LINK.OPENED = true ∧ s.admitted = true ∧
      (∃ e1 e2, s.ENV.moves 1 [0] e1 ∧ e1.moves 4 [0, 0, 0x1F, 0x40] e2) ∧
      (s.loopback = true → [0] = [s.CFG.CMD_READ_POS] ∧ [0, 0, 0x1F, 0x40] = s.CFG.fetchFrame) ∧
      (true = true ↔ s.HAZ = true ∨ s.holdsOther .c1 ∨ s.ENC.get .c1 = .uninitialized) :=
  ⟨⟨by decide, by decide⟩, by decide, rfl, rfl, rfl, ⟨_, _, ⟨rfl, rfl⟩, ⟨rfl, rfl⟩⟩, by decide,
    ⟨fun _ => .inr (.inr rfl), fun _ => rfl⟩⟩

/-! Errors, refusals, frames. -/

theorem witness_ErrorHaltsTheSequencerOnly : (start cfg).REQS = [] ∧ bench.REQS ≠ [] := by decide

/-- The sequencer at its second command, whose transfer fails. -/
def failingRun : State :=
  failing { at_ bench .programming 1 6 with A := 0b000 } .short

theorem witness_SequencerErrorHaltsInPlace :
    (failingRun.REQS = [] ∧ ∃ t, step failingRun = .next t ∧ t.RET = .error .ioError (.transferShort 1)) ∧
    let s := receiving { at_ (benchWith cfg 0x20) .programming 1 6 with A := 0b000 } 1 [0x02]
    s.REQS = [] ∧ ∃ t, step s = .next t ∧ t.RET = .error .integrityError (.loopbackMismatch [⟨0, 0x03, 0x02⟩]) :=
  ⟨⟨rfl, _, rfl, rfl⟩, rfl, _, rfl, rfl⟩

theorem witness_HarnessNeverHalts : bench.REQS ≠ [] ∧ ∃ t, step bench = .next t := ⟨by decide, _, rfl⟩

theorem witness_IllFormedConfigurationHaltsFirst :
    let s := start (Config.testCfg 7 (some 0) 0)
    s.REQS = [] ∧ s.PHASE = .setup ∧ s.CH = 0 ∧ s.STEP = 0 ∧ s.CFG.wf = false := by decide

theorem witness_WellFormedConfigurations : (Config.testCfg 7 (some 0) 0).wf = false ∧ cfg.wf = true := by decide

theorem witness_OperationsCompleteUnlessRefused :
    (bench.live ∧ prerequisites (.pollch 6) bench) ∧ ¬ ((start cfg).live ∧ prerequisites .desel (start cfg)) :=
  ⟨⟨bench_live, fun _ => ⟨rfl, rfl, rfl⟩⟩, fun h => absurd h.2 (by decide : (start cfg).GPIO_DIR ≠ .outputs)⟩

theorem witness_OperationsLeaveTheRestAlone :
    (∃ t, exec (.pollch 2) (receiving readable 2 [0, 0, 0, 0, 5]) = .next t ∧ ∀ k info, t.RET ≠ .error k info) ∧
    (∃ t, exec .desel bench = .next t) ∧ bench.REQS ≠ [] ∧ Instr.drives .xfetch = false ∧
      Instr.exchanges .desel = false ∧ Instr.writesCount (.sel 1) = false ∧ Instr.writesResult .xfetch = false ∧
      Instr.programs (.xcmd .setQuad) = false ∧ Instr.checksDuty (.xchg []) = false ∧ Instr.asks .dec = false :=
  ⟨⟨_, rfl, nofun⟩, ⟨_, rfl⟩, by decide, rfl, rfl, rfl, rfl, rfl, rfl, rfl⟩

theorem witness_HistoryOnlyGrows :
    ∃ t, step (asked (receiving { readable with HAZ := true } 1 [0]) .mw8 0 [0x53]) = .next t := ⟨_, rfl⟩

/-! Invariants and runs. -/

/-- The last step of a run of one channel and one cycle: eight bytes were moved. -/
def lastStep : State :=
  { benchWith (Config.testCfg 1 (some 1) 1000) 0 with
    REQS := [], PHASE := .polling, CH := 0, STEP := 7, CYC := some 1, LAST_T := some 0, SENT := 8, RCVD := 8,
    ENC := { bench.ENC with c1 := .configured }, RES := { bench.RES with c1 := some (.f64 0x4076800000000000) },
    OUT := [.result [.f64 0x4076800000000000]],
    TRACE :=
      [.gin, .drv 7, .drv 0, .drv 0, .xfr 0 (some [0x88]) (some [0]), .drv 7, .drv 0, .xfr 0 (some [3]) (some [0]),
       .drv 7, .drv 0, .xfr 0 (some [0]) (some [0]), .drv 7, .drv 7, .drv 0, .xfr 0 (some [0x60]) (some [0]),
       .xfr 0 (some [0, 0, 0, 0]) (some [0, 0, 0x1F, 0x40]), .drv 7] }

theorem lastStep_MachineInv : MachineInv lastStep where
  counters := by decide
  accounted := by decide
  fault := by decide
  exit := by decide
  buffers := by decide
  lines := by
    intro p h
    have h : some (7 : Pattern) = some p := h
    cases h
    exact ⟨rfl, .inl rfl⟩
  outputs := by decide
  link := by intro h; cases h
  request := rfl
  brackets := fun _ => by
    change bracketed 7 [7, 0, 0, 7, 0, 7, 0, 7, 7, 0, 7]
    simp [bracketed]

theorem lastStep_SequencerInv : SequencerInv lastStep where
  alone := rfl
  noBreach := rfl
  noFault := fun _ => rfl
  position := by
    refine ⟨⟨by decide, rfl, rfl⟩, ?_, by decide, ⟨1, rfl, by decide, by decide⟩, rfl, rfl, by decide, by decide⟩
    intro c h
    cases c <;> first | rfl | exact absurd h (by decide)

/-- The hypotheses of `StepKeepsTheInvariant`, `SequencerKeepsItsInvariant`, `SequencerIsNeverRefused` and
`SequencerStepsCountDown` together. -/
theorem witness_StepKeepsTheInvariant :
    MachineInv lastStep ∧ SequencerInv lastStep ∧ (∃ t, step lastStep = .next t ∧ t.PHASE ≠ .halted) ∧
      lastStep.live ∧ (lastStep.LINK.OPENED = true → lastStep.admitted = true) :=
  ⟨lastStep_MachineInv, lastStep_SequencerInv, ⟨_, rfl, by decide⟩, ⟨by decide, by decide⟩, fun _ => by decide⟩

/-- The last step of a run stands at the count of the cycles, and at a row of the ROM. -/
theorem witness_DecCountsDown_run :
    SequencerInv lastStep ∧ lastStep.live ∧
      romWord lastStep.CFG.N lastStep.PHASE lastStep.CH lastStep.STEP = some 0xB0 :=
  ⟨lastStep_SequencerInv, ⟨by decide, by decide⟩, rfl⟩

/-- Steps taken one after the other. -/
def runFor : Nat → State → Option State
  | 0, s => some s
  | n + 1, s =>
    match step s with
    | .next t => runFor n t
    | _ => none

theorem stepsTo_of_runFor {n : Nat} {s t : State} (h : runFor n s = some t) : stepsTo n s t := by
  induction n generalizing s with
  | zero => exact Option.some.inj h
  | succ n ih =>
    unfold runFor at h
    split at h
    · exact ⟨_, ‹_›, ih h⟩
    · cases h

/-- The environment of program P1. -/
def envP1 : Environment :=
  { calls := List.replicate 5 true, reads := [some 0, some 500000, some 8], transfers := List.replicate 5 .done,
    bytes := [0, 0, 0, 0, 0, 0, 0x1F, 0x40], clock := [0, 10], drawn := 0 }

/-- [P1] -/
theorem test_program_P1 :
    (runFor 23 (State.resetWith (Config.testCfg 1 (some 1) 1000) 0b101 (eff 0) envP1)).map
      (fun t => (t.PHASE, t.OUT, t.SENT, t.A)) =
    some (.done, [.result [.f64 0x4076800000000000]], 8, 0b111) := by decide +kernel

theorem witness_CompletedRunIsAccountedFor :
    ∃ t, stepsTo 23 (State.resetWith (Config.testCfg 1 (some 1) 1000) 0b101 (eff 0) envP1) t ∧ t.PHASE = .done := by
  have h := test_program_P1
  match hr : runFor 23 (State.resetWith (Config.testCfg 1 (some 1) 1000) 0b101 (eff 0) envP1) with
  | none => rw [hr] at h; cases h
  | some t =>
    rw [hr] at h
    exact ⟨t, stepsTo_of_runFor hr, congrArg Prod.fst (Option.some.inj h)⟩

end Sys2Proof.Tests
end

section
/-! PROOFS. The state at process start (10_state.md R51). -/

namespace Sys2Proof

/-- Six equal entries give that entry for every channel. -/
@[simp] theorem Six.get_const {α : Type} (v : α) (c : Chan) : (⟨v, v, v, v, v, v⟩ : Six α).get c = v := by
  cases c <;> rfl

namespace Machine

@[simp] theorem State.resetWith_RES_get (cfg : Cfg) (levels : Pattern) (eff : LinkParams) (env : Environment)
    (c : Chan) : (State.resetWith cfg levels eff env).RES.get c = none :=
  Six.get_const none c

@[simp] theorem State.resetWith_ENC_get (cfg : Cfg) (levels : Pattern) (eff : LinkParams) (env : Environment)
    (c : Chan) : (State.resetWith cfg levels eff env).ENC.get c = .uninitialized :=
  Six.get_const EncState.uninitialized c

/-- Settles O53: the reset value of each single element is read off the record, and the two families of elements that
are indexed by a channel (`RES` and `ENC`) hold theirs at every channel. -/
theorem resetState : Obligations.ResetState := by
  unfold Obligations.ResetState
  have hRES : ∀ c, State.reset.RES.get c = none := State.resetWith_RES_get _ _ _ _
  have hENC : ∀ c, State.reset.ENC.get c = .uninitialized := State.resetWith_ENC_get _ _ _ _
  exact ⟨rfl, rfl, rfl, rfl, rfl, rfl, rfl, hRES, hENC, rfl, rfl, rfl, rfl, rfl, rfl, rfl, rfl, rfl, rfl, rfl⟩

end Machine

end Sys2Proof
end

section
/-! PROOFS. The positions of the sequencer ROM (30_encoding.md R104) and the code tables (60_exceptions.md R215,
30_encoding.md R102). -/

namespace Sys2Proof.Machine

/-- The positions in the table of the ROM for `n` channels (30_encoding.md R104). -/
def RomPosition (n : Nat) (phase : Phase) (c step : Nat) : Prop :=
  (phase = .setup ∧ c = 0 ∧ step ≤ 1) ∨ (phase = .programming ∧ 1 ≤ c ∧ c ≤ n ∧ step ≤ 11) ∨
  (phase = .ready ∧ c = 0 ∧ step = 0) ∨ (phase = .polling ∧ 1 ≤ c ∧ c ≤ n ∧ step ≤ 4) ∨
  (phase = .polling ∧ c = 0 ∧ 5 ≤ step ∧ step ≤ 7)

/-- The polling rows of the ROM, for the number of a served channel. -/
theorem romWord_polling_served {n c step : Nat} (h1 : 1 ≤ c) (h2 : c ≤ n) :
    romWord n .polling c step = pollingWords[step]? := by
  obtain ⟨c, rfl⟩ := Nat.exists_eq_add_of_le' h1
  exact romWord_polling h2

/-- A served channel's block of words holds one at each of its steps, and no other. -/
theorem served_words_ne_none_iff {n c step : Nat} {words : List Byte} :
    (if 1 ≤ c ∧ c ≤ n then words[step]? else none) ≠ none ↔ 1 ≤ c ∧ c ≤ n ∧ step < words.length := by
  rw [ne_eq, ite_eq_right_iff, List.getElem?_eq_none_iff, Classical.not_imp, not_le, and_assoc]

theorem romPosition_of_romWord {n : Nat} {phase : Phase} {c step : Nat} (h : romWord n phase c step ≠ none) :
    RomPosition n phase c step := by
  unfold romWord at h
  split at h
  case h_3 c step =>
    obtain ⟨h1, h2, h3⟩ := served_words_ne_none_iff.mp h
    exact .inr (.inl ⟨rfl, h1, h2, Nat.le_of_lt_succ h3⟩)
  case h_8 c step _ _ _ =>
    obtain ⟨h1, h2, h3⟩ := served_words_ne_none_iff.mp h
    exact .inr (.inr (.inr (.inl ⟨rfl, h1, h2, Nat.le_of_lt_succ h3⟩)))
  case h_9 => exact absurd rfl h
  all_goals simp [RomPosition]

theorem romWord_of_romPosition {n : Nat} {phase : Phase} {c step : Nat} (h : RomPosition n phase c step) :
    romWord n phase c step ≠ none := by
  rcases h with ⟨rfl, rfl, h⟩ | ⟨rfl, h1, h2, h⟩ | ⟨rfl, rfl, rfl⟩ | ⟨rfl, h1, h2, h⟩ | ⟨rfl, rfl, h5, h7⟩
  · interval_cases step <;> nofun
  · exact served_words_ne_none_iff.mpr ⟨h1, h2, Nat.lt_succ_of_le h⟩
  · nofun
  · rw [romWord_polling_served h1 h2, ne_eq, List.getElem?_eq_none_iff, not_le]
    exact Nat.lt_succ_of_le h
  · interval_cases step <;> nofun

/-- Facts are stated for the twelve steps of a channel's programming only. -/
theorem State.step_le_of_programmingAt {s : State} {c step : Nat} (h : s.programmingAt c step) : step ≤ 11 := by
  by_contra hlt
  obtain ⟨k, rfl⟩ := Nat.exists_eq_add_of_le' (Nat.lt_of_not_le hlt)
  exact h

/-- Facts are stated for the five steps of a served channel and the three steps that end a cycle only. -/
theorem State.position_of_pollingAt {s : State} {c step : Nat} (h : s.pollingAt c step) :
    (1 ≤ c ∧ c ≤ s.CFG.N ∧ step ≤ 4) ∨ (c = 0 ∧ 5 ≤ step ∧ step ≤ 7) := by
  unfold State.pollingAt at h
  split at h
  case h_4 _ c =>
    refine .inl ⟨c.succ_pos, h.1, ?_⟩
    by_contra hlt
    obtain ⟨k, rfl⟩ := Nat.exists_eq_add_of_le' (Nat.lt_of_not_le hlt)
    exact h.2.2
  case h_5 => exact h.elim
  all_goals exact .inr ⟨rfl, by decide, by decide⟩

/-- The sequencer stands at a position of the ROM until it has ended. -/
theorem SequencerInv.romPosition {s : State} (h : SequencerInv s) (hl : s.live) :
    RomPosition s.CFG.N s.PHASE s.CH s.STEP := by
  have hpos := h.position
  unfold State.positionHolds at hpos
  cases hp : s.PHASE <;> rw [hp] at hpos
  case setup =>
    obtain ⟨hc, -, -, -, -, hstep⟩ := hpos
    exact .inl ⟨rfl, hc, by omega⟩
  case programming =>
    obtain ⟨-, -, -, h1, h2, hat⟩ := hpos
    exact .inr (.inl ⟨rfl, h1, h2, State.step_le_of_programmingAt hat⟩)
  case ready =>
    obtain ⟨-, -, -, hc, hstep, -⟩ := hpos
    exact .inr (.inr (.inl ⟨rfl, hc, hstep⟩))
  case polling =>
    obtain ⟨-, -, -, -, hat⟩ := hpos
    rcases State.position_of_pollingAt hat with hat | hat
    · exact .inr (.inr (.inr (.inl ⟨rfl, hat⟩)))
    · exact .inr (.inr (.inr (.inr ⟨rfl, hat⟩)))
  case done => exact absurd hp hl.1
  case halted => exact absurd hp hl.2

/-- Settles O8: the rows are the ROM's own, a word stands at the positions of the table only, and the sequencer's
invariant places it at one of them. -/
theorem romHoldsTheSequence : Obligations.RomHoldsTheSequence := by
  unfold Obligations.RomHoldsTheSequence
  refine ⟨fun s hs hl => romWord_of_romPosition (hs.romPosition hl), fun n =>
    ⟨rfl, rfl, rfl, rfl, rfl, rfl, fun _ h1 h2 _ => romWord_programming h1 h2,
      fun _ h1 h2 _ => romWord_polling_served h1 h2, fun _ _ _ => romPosition_of_romWord⟩⟩

/-- Settles O46: each code is its row of the tables, whatever the cause carries. -/
theorem codesFollowTheTables : Obligations.CodesFollowTheTables := by
  unfold Obligations.CodesFollowTheTables
  exact ⟨⟨rfl, rfl, rfl⟩, fun _ => ⟨rfl, rfl⟩, fun _ => rfl, fun _ => rfl, fun _ => rfl, fun _ _ => rfl, fun _ => rfl,
    rfl, fun _ => rfl, fun _ => rfl, fun _ => rfl, rfl⟩

end Sys2Proof.Machine
end

section
/-! PROOFS. Channel selection (41_channel_select.md R142 to R144). -/

namespace Sys2Proof

/-- A word of `SEL` decodes to the select of the literal id it carries (30_encoding.md R98). -/
theorem decode_selWord {c : Int} (hc : 0 ≤ c ∧ c ≤ 15) (rest : List Byte) :
    decode (selWord c :: rest) = .ok (.sel c, rest) := by
  calc decode (selWord c :: rest) = .ok (.sel (BitVec.ofInt 4 c).toNat, rest) := decode_microWord _ _ _
    _ = .ok (.sel c, rest) := by rw [toNat_idField hc]

/-- The words 0x30 to 0x3F are those of `SEL` with the ids 0 to 15 (30_encoding.md R98). -/
theorem ofNat_eq_selWord {n : Nat} (hn : n ≤ 15) : BitVec.ofNat 8 (0x30 + n) = selWord n := by
  interval_cases n <;> rfl

namespace Machine

/-! Refusal conditions in a known state. -/

/-- Outside the terminal phases the condition R262 (k) passes. -/
theorem guarded_inTerminal_of_live {s : State} (hl : s.live) (cs : List (Bool × Refusal)) (t : State) :
    guarded (s.inTerminal :: cs) t = guarded cs t := by
  rw [State.inTerminal, live_iff_not_terminal.mp hl, guarded_cons_false]

/-- Lines that are not outputs refuse the operation by R262 (c). -/
theorem guarded_linesUnset_of_unconfigured {s : State} (hg : s.GPIO_DIR = .unconfigured)
    (cs : List (Bool × Refusal)) (t : State) : guarded (s.linesUnset :: cs) t = .refused .linesNotOutputs := by
  rw [State.linesUnset, hg, beq_self_eq_true, guarded_cons_true]

/-- For a valid id every condition counts. -/
theorem ifValid_of_validId {c : Int} (hc : validId c) (check : Bool × Refusal) : ifValid c check = check := by
  rw [ifValid, Chan.ofId_isSome.mpr hc, Bool.true_and]

/-- For an invalid id no condition counts (60_exceptions.md R221). -/
theorem guarded_ifValid_of_not_validId {c : Int} (hc : ¬ validId c) (checks : List (Bool × Refusal)) (t : State) :
    guarded (checks.map (ifValid c)) t = .next t := by
  induction checks with
  | nil => rfl
  | cons check checks ih => rw [List.map_cons, ifValid, invalid_none hc]; exact ih

/-! The id check (R143). -/

theorem selEffect_of_not_validId {c : Int} (hc : ¬ validId c) (s : State) :
    selEffect c s = .error .configurationError (.invalidChannel c) s := by
  rw [selEffect, invalid_none hc]

theorem programEffect_of_not_validId {c : Int} (hc : ¬ validId c) (s : State) :
    programEffect c s = .error .configurationError (.invalidChannel c) s := by
  rw [programEffect, invalid_none hc]

theorem readEffect_of_not_validId {c : Int} (hc : ¬ validId c) (s : State) :
    readEffect c s = .error .configurationError (.invalidChannel c) s := by
  rw [readEffect, invalid_none hc]

/-- An operation whose conditions all wait for the id check, and whose effect is an error in the state it found,
raises that error at once. -/
theorem guarded_error_of_not_validId {α : Type} {s : State} {c : Int} (hl : s.live) (hc : ¬ validId c)
    (checks : List (Bool × Refusal)) {r : Result α} {k : ErrKind} {i : ErrInfo} (hr : r = .error k i s)
    (ret : α → Returned) :
    guarded (s.inTerminal :: checks.map (ifValid c)) (r.settle ret) = .next (s.takeError k i) := by
  rw [guarded_inTerminal_of_live hl, guarded_ifValid_of_not_validId hc, hr, Result.error_settle]

theorem exec_sel_of_not_validId {s : State} {c : Int} (hl : s.live) (hc : ¬ validId c) :
    exec (.sel c) s = .next (s.takeError .configurationError (.invalidChannel c)) :=
  guarded_error_of_not_validId hl hc [s.linesUnset] (selEffect_of_not_validId hc s) _

theorem exec_program_of_not_validId {s : State} {c : Int} (hl : s.live) (hc : ¬ validId c) :
    exec (.program c) s = .next (s.takeError .configurationError (.invalidChannel c)) :=
  guarded_error_of_not_validId hl hc [s.linesUnset, s.linkClosed, s.notAdmitted] (programEffect_of_not_validId hc s) _

theorem exec_readCount_of_not_validId {s : State} {c : Int} (hl : s.live) (hc : ¬ validId c) :
    exec (.readCount c) s = .next (s.takeError .configurationError (.invalidChannel c)) :=
  guarded_error_of_not_validId hl hc [s.linkClosed, s.notAdmitted] (readEffect_of_not_validId hc s) _

/-- Settles O22: for such an id the three operations skip their conditions and end in the id check's error. -/
theorem invalidChannelIsAConfigurationError : Obligations.InvalidChannelIsAConfigurationError := by
  unfold Obligations.InvalidChannelIsAConfigurationError
  exact fun _ _ hl hc =>
    ⟨exec_sel_of_not_validId hl hc, exec_program_of_not_validId hl hc, exec_readCount_of_not_validId hl hc⟩

/-! Select and deselect. -/

theorem exec_sel_of_unconfigured {s : State} {c : Int} (hl : s.live) (hc : validId c)
    (hg : s.GPIO_DIR = .unconfigured) : exec (.sel c) s = .refused .linesNotOutputs := by
  change guarded [s.inTerminal, ifValid c s.linesUnset] _ = _
  rw [guarded_inTerminal_of_live hl, ifValid_of_validId hc, guarded_linesUnset_of_unconfigured hg]

theorem exec_desel_of_unconfigured {s : State} (hl : s.live) (hg : s.GPIO_DIR = .unconfigured) :
    exec .desel s = .refused .linesNotOutputs := by
  change guarded [s.inTerminal, s.linesUnset] _ = _
  rw [guarded_inTerminal_of_live hl, guarded_linesUnset_of_unconfigured hg]

/-- Settles O21: the word by its two fields, then the id check, the lines' condition, and the drive of a channel. -/
theorem selectDrivesTheTableEntry : Obligations.SelectDrivesTheTableEntry := by
  unfold Obligations.SelectDrivesTheTableEntry
  refine ⟨fun n hn => ?word, fun s c hl =>
    ⟨exec_sel_of_not_validId hl, exec_sel_of_unconfigured hl, fun ch haz hch hg hhaz => ?drives⟩⟩
  case word =>
    rw [ofNat_eq_selWord hn, decode_selWord (by omega)]
  case drives =>
    rw [hch, exec_sel hl hg, select_eq hhaz]

/-- Settles O24: the drive of the idle pattern reads nothing of what the lines held. -/
theorem deselectDrivesTheIdlePattern : Obligations.DeselectDrivesTheIdlePattern := by
  unfold Obligations.DeselectDrivesTheIdlePattern
  exact ⟨rfl, fun _ hl => ⟨exec_desel_of_unconfigured hl, exec_desel hl⟩⟩

end Machine

end Sys2Proof
end

section
/-! PROOFS. The sample of a fetch (42_encoder_commands.md R163, R164). -/

namespace Sys2Proof

/-- The value of two words put side by side: the upper one counts in units of the lower one's range. -/
theorem toNat_append_eq_mul_add {m n : Nat} (x : BitVec m) (y : BitVec n) :
    (x ++ y).toNat = x.toNat * 2 ^ n + y.toNat := by
  rw [BitVec.toNat_append, ← Nat.shiftLeft_add_eq_or_of_lt y.isLt, Nat.shiftLeft_eq]

/-- Four bytes carry the weights of R164, the first the most significant. -/
theorem toNat_be32 (b0 b1 b2 b3 : Byte) :
    (be32 [b0, b1, b2, b3]).toNat = b0.toNat * 2 ^ 24 + b1.toNat * 2 ^ 16 + b2.toNat * 2 ^ 8 + b3.toNat := by
  calc (be32 [b0, b1, b2, b3]).toNat
      = ((b0.toNat * 2 ^ 8 + b1.toNat) * 2 ^ 8 + b2.toNat) * 2 ^ 8 + b3.toNat := by
        rw [be32, toNat_append_eq_mul_add, toNat_append_eq_mul_add, toNat_append_eq_mul_add]
    _ = b0.toNat * 2 ^ 24 + b1.toNat * 2 ^ 16 + b2.toNat * 2 ^ 8 + b3.toNat := by omega

namespace Machine

/-- On an open, admitted link outside the terminal phases nothing refuses `XFETCH` (R262). -/
theorem exec_xfetch {s : State} (hl : s.live) (ho : s.LINK.OPENED = true) (ha : s.admitted = true) :
    exec .xfetch s = .next ((xfetchEffect s).settle .count) := by
  change guarded [s.inTerminal, s.linkClosed, s.notAdmitted] _ = _
  rw [guarded_inTerminal_of_live hl]
  simp [State.linkClosed, ho, State.notAdmitted, ha]

/-- A fetch whose transfer succeeds leaves the value of the bytes received in `CNT`. -/
theorem exec_xfetch_CNT {s : State} {rx : List Byte} {e : Environment} (hl : s.live) (ho : s.LINK.OPENED = true)
    (ha : s.admitted = true) (hm : s.ENV.moves 4 rx e) (hlb : s.loopback = true → rx = s.CFG.fetchFrame) :
    ∃ t, exec .xfetch s = .next t ∧ t.CNT = some (be32 rx) := by
  rw [exec_xfetch hl ho ha, xfetchEffect_of_moves ha hm hlb rfl]
  exact ⟨_, rfl, rfl⟩

/-- Settles O30: the fetch leaves `be32` of the four bytes, whose value is the weighted sum. -/
theorem counterIsBigEndianUnsigned : Obligations.CounterIsBigEndianUnsigned := by
  unfold Obligations.CounterIsBigEndianUnsigned
  intro s b0 b1 b2 b3 e hl ho ha hm hlb
  obtain ⟨t, hexec, hcnt⟩ := exec_xfetch_CNT hl ho ha hm (by simp [hlb])
  exact ⟨t, be32 [b0, b1, b2, b3], hexec, hcnt, toNat_be32 b0 b1 b2 b3, (be32 [b0, b1, b2, b3]).isLt⟩

end Machine

end Sys2Proof
end

section
/-! PROOFS. The entry to the polling loop (43_polling_loop.md R182). -/

namespace Sys2Proof.Machine

/-- Outside the terminal phases nothing refuses `ARM` (R262): it reads the clock once and asks nothing of the link or
the lines. -/
theorem exec_arm_of_live {s : State} (hl : s.live) : exec .arm s = .next ((armEffect s).settle fun _ => .ok) := by
  change guarded [s.inTerminal] _ = _
  rw [guarded_inTerminal_of_live hl, guarded_nil]

/-- What `ARM` leaves, by the reading of the clock. -/
theorem armEffect_of_now {s : State} {now : Int} {e : Environment} (hnow : s.ENV.now = (now, e)) :
    armEffect s = .ok () { s with CYC := some (s.CFG.K.getD 1), LAST_T := some now, ENV := e } := by
  rw [armEffect, hnow, Cfg.cycles]

/-- Settles O36: `ARM` completes in every live state, and its effect writes the counter, the time stamp and the clock's
environment only, so the snapshots stay. -/
theorem armLoadsTheCycleCount : Obligations.ArmLoadsTheCycleCount := by
  unfold Obligations.ArmLoadsTheCycleCount
  refine ⟨rfl, fun s now e hl hnow => ?_⟩
  rw [exec_arm_of_live hl, armEffect_of_now hnow, Result.ok_settle]

end Sys2Proof.Machine
end

section
/-! PROOFS. The throughput check (44_rate_monitor.md R202). -/

namespace Sys2Proof.Machine

theorem exec_rate_of_no_time_stamp {s : State} (hl : s.live) (hlast : s.LAST_T = none) :
    exec .rate s = .refused .noTimeStamp := by
  change guarded [s.inTerminal, (s.LAST_T.isNone, .noTimeStamp)] _ = _
  rw [guarded_inTerminal_of_live hl, hlast, Option.isNone_none, guarded_cons_true]

/-- Outside the terminal phases a time stamp is all that `RATE` needs (R262). -/
theorem exec_rate_of_time_stamp {s : State} {last : Int} (hl : s.live) (hlast : s.LAST_T = some last) :
    exec .rate s = .next ((rateEffect s).settle .report) := by
  change guarded [s.inTerminal, (s.LAST_T.isNone, .noTimeStamp)] _ = _
  rw [guarded_inTerminal_of_live hl, hlast, Option.isNone_some, guarded_cons_false, guarded_nil]

/-- What `RATE` leaves, by the time stamp and the reading of the clock: a report past the interval, else the reading
alone. -/
theorem rateEffect_of_now {s : State} {last now : Int} {e : Environment} (hlast : s.LAST_T = some last)
    (hnow : s.ENV.now = (now, e)) :
    rateEffect s =
      if now - last > s.CFG.INTERVAL_MS then
        .ok (some s.rates) (({ s with ENV := e } : State).reported now s.rates.1 s.rates.2)
      else .ok none { s with ENV := e } := by
  simp only [rateEffect, hlast, hnow]

/-- Settles O39: with a time stamp `RATE` completes with its effect, which splits on the strict comparison. -/
theorem rateReportsAfterTheInterval : Obligations.RateReportsAfterTheInterval := by
  unfold Obligations.RateReportsAfterTheInterval
  refine ⟨rfl, fun _ => exec_rate_of_no_time_stamp, fun s last now e hl hlast hnow =>
    ⟨fun hpast => ?report, fun hwithin => ?clockOnly⟩⟩
  case report =>
    rw [exec_rate_of_time_stamp hl hlast, rateEffect_of_now hlast hnow, if_pos hpast, Result.ok_settle]
    rfl
  case clockOnly =>
    rw [exec_rate_of_time_stamp hl hlast, rateEffect_of_now hlast hnow, if_neg hwithin, Result.ok_settle]

end Sys2Proof.Machine
end

section
/-! PROOFS. Encodings: decoding gives back what was encoded, and only encodings decode (30_encoding.md R91 to R108). -/

namespace Sys2Proof

/-! Micro-word streams (R97, R98, R106). -/

theorem decode_xcmdWord (k : Cmd) (rest : List Byte) :
    decode (microWord 0x5 (BitVec.ofNat 4 k.index) :: rest) = .ok (.xcmd k, rest) := by
  cases k <;> rfl

/-- The slots 0 to 6 are written in the field of `CONV` as they are. -/
theorem decode_convWord {n : Nat} (hn : n ≤ 6) (rest : List Byte) :
    decode (microWord 0x7 (BitVec.ofNat 4 n) :: rest) = .ok (.convAngle n, rest) := by
  have hfield : (BitVec.ofNat 4 n).toNat = n := toNat_field (by omega)
  calc decode (microWord 0x7 (BitVec.ofNat 4 n) :: rest)
      = if (BitVec.ofNat 4 n).toNat ≤ 6 then .ok (.convAngle (BitVec.ofNat 4 n).toNat, rest)
        else .error (.reservedArg 0x7 (BitVec.ofNat 4 n)) := decode_microWord _ _ _
    _ = .ok (.convAngle n, rest) := by rw [hfield, if_pos hn]

/-- The literal bytes of `XCHG` are taken from the stream, and the rest of it stays (R106). -/
theorem decode_xchgWord {tx : List Byte} (hlen : tx.length ≤ 15) (rest : List Byte) :
    decode (microWord 0xC (BitVec.ofNat 4 tx.length) :: (tx ++ rest)) = .ok (.xchg tx, rest) := by
  have hfield : (BitVec.ofNat 4 tx.length).toNat = tx.length := toNat_field hlen
  calc decode (microWord 0xC (BitVec.ofNat 4 tx.length) :: (tx ++ rest))
      = if (BitVec.ofNat 4 tx.length).toNat ≤ (tx ++ rest).length then
          .ok (.xchg ((tx ++ rest).take (BitVec.ofNat 4 tx.length).toNat),
            (tx ++ rest).drop (BitVec.ofNat 4 tx.length).toNat)
        else .error (.truncated (BitVec.ofNat 4 tx.length).toNat (tx ++ rest).length) := decode_microWord _ _ _
    _ = .ok (.xchg tx, rest) := by
      rw [hfield, if_pos (by simp), List.take_left, List.drop_left]

/-- Settles O1, by the word of each operation: the field of an operand gives the operand back. -/
theorem streamDecodeOfEncode : Obligations.StreamDecodeOfEncode := by
  unfold Obligations.StreamDecodeOfEncode
  intro cfg i rest hformat hwf
  cases i with
  | sel c => exact decode_selWord (of_decide_eq_true hwf) rest
  | xcmd k => exact decode_xcmdWord k rest
  | convAngle slot => exact decode_convWord (of_decide_eq_true hwf) rest
  | xchg tx => exact decode_xchgWord (of_decide_eq_true hwf) rest
  | reservedOp0 arg => exact decode_microWord 0x0 arg rest
  | reservedOpF arg => exact decode_microWord 0xF arg rest
  | openLink | desel | selc | xfetch | emit | rate | arm | dec | vloop | ginit => rfl
  | program | readCount | progch | pollch | addr3 | cmdSelCtrl | cmdSetQuad | cmdSetSec | cmdReadPos | fetch32
  | rsp32 => cases hformat

/-! Pseudo-operations (R108). The four expansions have different lengths, so that each is told from the others. -/

theorem programWords_length (c : Int) : (programWords c).length = 9 := rfl
theorem progchWords_length (c : Int) : (progchWords c).length = 12 := rfl
theorem pollchWords_length (c : Int) : (pollchWords c).length = 5 := rfl
theorem readWords_length : readWords.length = 2 := rfl

/-- Lists of different lengths differ. -/
theorem ne_of_length {l m : List Byte} {a b : Nat} (hl : l.length = a) (hm : m.length = b) (hab : a ≠ b) : l ≠ m :=
  fun h => hab (hl.symm.trans ((congrArg List.length h).trans hm))

/-- The id of a `SEL` word, read from its field. -/
theorem argOf_selWord {c : Int} (hc : 0 ≤ c ∧ c ≤ 15) : ((argOf (selWord c)).toNat : Int) = c := by
  rw [selWord, argOf_microWord, toNat_idField hc]

theorem decodePseudo_programWords {c : Int} (hc : 0 ≤ c ∧ c ≤ 15) (operand : Int) :
    decodePseudo operand (programWords c) = .ok (.program c) := by
  have hid : ((argOf ((programWords c).getD 0 0)).toNat : Int) = c := argOf_selWord hc
  simp only [decodePseudo, hid, if_true]

theorem decodePseudo_progchWords {c : Int} (hc : 0 ≤ c ∧ c ≤ 15) (operand : Int) :
    decodePseudo operand (progchWords c) = .ok (.progch c) := by
  have hid : ((argOf ((progchWords c).getD 1 0)).toNat : Int) = c := argOf_selWord hc
  have hne : ∀ d, progchWords c ≠ programWords d := fun d =>
    ne_of_length (progchWords_length c) (programWords_length d) (by decide)
  simp only [decodePseudo, hid, hne, if_true, if_false]

theorem decodePseudo_pollchWords {c : Int} (hc : 0 ≤ c ∧ c ≤ 6) (operand : Int) :
    decodePseudo operand (pollchWords c) = .ok (.pollch c) := by
  have hid : ((argOf ((pollchWords c).getD 0 0)).toNat : Int) = c := argOf_selWord (by omega)
  have hne : ∀ d, pollchWords c ≠ programWords d := fun d =>
    ne_of_length (pollchWords_length c) (programWords_length d) (by decide)
  have hne' : ∀ d, pollchWords c ≠ progchWords d := fun d =>
    ne_of_length (pollchWords_length c) (progchWords_length d) (by decide)
  simp only [decodePseudo, hid, hne, hne', hc.2, and_self, if_true, if_false]

theorem decodePseudo_readWords (operand : Int) : decodePseudo operand readWords = .ok (.readCount operand) := by
  have h1 : ∀ d, readWords ≠ programWords d := fun d =>
    ne_of_length readWords_length (programWords_length d) (by decide)
  have h2 : ∀ d, readWords ≠ progchWords d := fun d =>
    ne_of_length readWords_length (progchWords_length d) (by decide)
  have h3 : ∀ d, readWords ≠ pollchWords d := fun d =>
    ne_of_length readWords_length (pollchWords_length d) (by decide)
  simp only [decodePseudo, h1, h2, h3, false_and, if_true, if_false]

/-! Wire formats (R91 to R94). -/

/-- A pattern, widened to the byte it is carried in, is read back (R91). -/
theorem decodeAddr3_setWidth (p : Pattern) : decodeAddr3 [p.setWidth 8] = .ok (.addr3 p) := by
  revert p
  decide

/-- Settles O2: a micro-word stream with nothing after it (O1), the expansion of each pseudo-operation, and the
frames. -/
theorem formatDecodeOfEncode : Obligations.FormatDecodeOfEncode := by
  unfold Obligations.FormatDecodeOfEncode
  intro cfg i hwf
  have stream : i.format = .mw8 → decodeAs cfg i.format i.operand (encode cfg i) = .ok (i, []) := by
    intro hformat
    have h := streamDecodeOfEncode cfg i [] hformat hwf
    rw [List.append_nil] at h
    rw [hformat]
    exact h
  cases i with
  | program c => exact congrArg (Except.map _) (decodePseudo_programWords (of_decide_eq_true hwf) _)
  | readCount c => exact congrArg (Except.map fun i => (i, ([] : List Byte))) (decodePseudo_readWords c)
  | progch c => exact congrArg (Except.map _) (decodePseudo_progchWords (of_decide_eq_true hwf) _)
  | pollch c => exact congrArg (Except.map _) (decodePseudo_pollchWords (of_decide_eq_true hwf) _)
  | addr3 p => exact congrArg (Except.map _) (decodeAddr3_setWidth p)
  | cmdSelCtrl | cmdSetQuad | cmdSetSec | cmdReadPos | fetch32 => exact if_pos rfl
  | rsp32 a b c d => rfl
  | _ => exact stream rfl

/-! What decodes is an encoding. -/

/-- The bytes read are the encoding of a well-formed instruction of a format, followed by what was left. -/
def IsEncoding (cfg : Cfg) (fmt : Format) (bs rest : List Byte) (i : Instr) : Prop :=
  i.wf = true ∧ i.format = fmt ∧ bs = encode cfg i ++ rest

theorem decodeNoArg_eq_ok {op arg : Nibble} {i j : Instr} {bs rest : List Byte}
    (h : decodeNoArg op arg i bs = .ok (j, rest)) : arg = 0 ∧ i = j ∧ bs = rest := by
  unfold decodeNoArg at h
  split at h
  case isTrue harg => cases h; exact ⟨harg, rfl, rfl⟩
  case isFalse => cases h

/-- An operation without an operand is read from its own word only. -/
theorem isEncoding_of_decodeNoArg {cfg : Cfg} {op arg : Nibble} {i j : Instr} {bs rest : List Byte}
    (h : decodeNoArg op arg i bs = .ok (j, rest)) (hwf : i.wf = true) (hformat : i.format = .mw8)
    (henc : encode cfg i = [microWord op 0]) : IsEncoding cfg .mw8 (microWord op arg :: bs) rest j := by
  obtain ⟨rfl, rfl, rfl⟩ := decodeNoArg_eq_ok h
  exact ⟨hwf, hformat, by rw [henc]; rfl⟩

/-- The operation map is one to one (R98): one row for each code. -/
theorem isEncoding_of_decodeFields {cfg : Cfg} {op arg : Nibble} {bs rest : List Byte} {i : Instr}
    (h : decodeFields op arg bs = .ok (i, rest)) : IsEncoding cfg .mw8 (microWord op arg :: bs) rest i := by
  have code : ∀ {n : Nat}, op.toNat = n → op = BitVec.ofNat 4 n := fun hn => by
    rw [← hn, BitVec.ofNat_toNat, BitVec.setWidth_eq]
  unfold decodeFields at h
  split at h
  case h_1 heq =>
    obtain rfl := code heq
    cases h
    exact ⟨rfl, rfl, rfl⟩
  case h_4 heq =>
    obtain rfl := code heq
    cases h
    refine ⟨decide_eq_true (by omega), rfl, ?_⟩
    simp [encode, selWord]
  case h_6 heq =>
    obtain rfl := code heq
    split at h
    case h_1 k hk =>
      cases h
      exact ⟨rfl, rfl, by simp [encode, Cmd.index_of_ofIndex hk]⟩
    case h_2 => cases h
  case h_8 heq =>
    obtain rfl := code heq
    split at h
    case isTrue hle =>
      cases h
      exact ⟨decide_eq_true hle, rfl, by simp [encode]⟩
    case isFalse => cases h
  case h_13 heq =>
    obtain rfl := code heq
    split at h
    case isTrue hle =>
      cases h
      have hlen : (bs.take arg.toNat).length = arg.toNat := List.length_take_of_le hle
      refine ⟨decide_eq_true (by omega), rfl, ?_⟩
      simp [encode, hlen]
    case isFalse => cases h
  case h_16 =>
    simp only [imp_false] at *
    obtain rfl : op = 0xF := code (n := 15) (by omega)
    cases h
    exact ⟨rfl, rfl, rfl⟩
  all_goals
    obtain rfl := code (by assumption)
    exact isEncoding_of_decodeNoArg h rfl rfl rfl

theorem isEncoding_of_decode {cfg : Cfg} {bs rest : List Byte} {i : Instr} (h : decode bs = .ok (i, rest)) :
    IsEncoding cfg .mw8 bs rest i := by
  cases bs with
  | nil => cases h
  | cons w bs =>
    have hw := isEncoding_of_decodeFields (cfg := cfg) h
    rwa [microWord_fields] at hw

/-- The value of a field is an id of `SEL`. -/
theorem idField_range (x : Nibble) : 0 ≤ (x.toNat : Int) ∧ (x.toNat : Int) ≤ 15 := by omega

/-- A pseudo-operation is read from its own expansion only (R108). -/
theorem isEncoding_of_decodePseudo {cfg : Cfg} {operand : Int} {bs : List Byte} {i : Instr}
    (h : decodePseudo operand bs = .ok i) : IsEncoding cfg .pseudo bs [] i := by
  unfold decodePseudo at h
  simp only at h
  split at h
  case isTrue hbs =>
    cases h
    exact ⟨decide_eq_true (idField_range _), rfl, by rw [List.append_nil]; exact hbs⟩
  split at h
  case isTrue hbs =>
    cases h
    exact ⟨decide_eq_true (idField_range _), rfl, by rw [List.append_nil]; exact hbs⟩
  split at h
  case isTrue hbs =>
    cases h
    exact ⟨decide_eq_true ⟨(idField_range _).1, hbs.2⟩, rfl, by rw [List.append_nil]; exact hbs.1⟩
  split at h
  case isTrue hbs =>
    cases h
    exact ⟨rfl, rfl, by rw [List.append_nil]; exact hbs⟩
  case isFalse => cases h

/-- An address word is the byte of its pattern (R91). -/
theorem isEncoding_of_decodeAddr3 {cfg : Cfg} {bs : List Byte} {i : Instr} (h : decodeAddr3 bs = .ok i) :
    IsEncoding cfg .addr3 bs [] i := by
  unfold decodeAddr3 at h
  split at h
  case h_1 b =>
    split at h
    case isTrue hlt =>
      cases h
      refine ⟨rfl, rfl, ?_⟩
      have hb : (b.setWidth 3).setWidth 8 = b := by
        apply BitVec.eq_of_toNat_eq
        simp only [BitVec.toNat_setWidth]
        omega
      rw [List.append_nil, encode, hb]
    case isFalse => cases h
  case h_2 => cases h

theorem isEncoding_of_decodeRsp32 {cfg : Cfg} {bs : List Byte} {i : Instr} (h : decodeRsp32 bs = .ok i) :
    IsEncoding cfg .rsp32 bs [] i := by
  unfold decodeRsp32 at h
  split at h
  · cases h; exact ⟨rfl, rfl, rfl⟩
  · cases h

/-- A format of one frame each leaves nothing. -/
theorem ok_of_map_eq_ok {x : Except DecodeError Instr} {i : Instr} {rest : List Byte}
    (h : (x.map fun i => (i, ([] : List Byte))) = .ok (i, rest)) : x = .ok i ∧ rest = [] := by
  cases x <;> cases h
  exact ⟨rfl, rfl⟩

/-- Settles O3, format by format. -/
theorem decodedBytesAreEncodings : Obligations.DecodedBytesAreEncodings := by
  unfold Obligations.DecodedBytesAreEncodings
  intro cfg fmt operand bs rest i h
  change IsEncoding cfg fmt bs rest i
  cases fmt <;> simp only [decodeAs] at h
  case mw8 => exact isEncoding_of_decode h
  case pseudo =>
    obtain ⟨hi, rfl⟩ := ok_of_map_eq_ok h
    exact isEncoding_of_decodePseudo hi
  case addr3 =>
    obtain ⟨hi, rfl⟩ := ok_of_map_eq_ok h
    exact isEncoding_of_decodeAddr3 hi
  case rsp32 =>
    obtain ⟨hi, rfl⟩ := ok_of_map_eq_ok h
    exact isEncoding_of_decodeRsp32 hi
  case cmd8 k =>
    split at h
    case isTrue hbs => cases h; cases k <;> exact ⟨rfl, rfl, hbs⟩
    case isFalse => cases h
  case fetch32 =>
    split at h
    case isTrue hbs => cases h; exact ⟨rfl, rfl, hbs⟩
    case isFalse => cases h

/-- Settles O4, by decoding each word. -/
theorem sampleWordsDecode : Obligations.SampleWordsDecode := by
  unfold Obligations.SampleWordsDecode
  exact ⟨rfl, rfl, rfl, rfl, rfl, rfl, rfl, rfl, rfl, rfl, rfl⟩

namespace Machine

/-! Reserved words (R105 (d)). -/

/-- The words that the encoding reserves, by their two fields. -/
def ReservedFields (op arg : Nibble) : Prop :=
  op = 0x0 ∨ op = 0xF ∨ (op = 0x5 ∧ 4 ≤ arg.toNat) ∨ (op = 0x7 ∧ 7 ≤ arg.toNat) ∨
    (op ∈ [0x1, 0x2, 0x4, 0x6, 0x8, 0x9, 0xA, 0xB, 0xD, 0xE] ∧ arg ≠ 0)

/-- The commands have the indices 0 to 3 only. -/
theorem Cmd.ofIndex_eq_none {n : Nat} (h : 4 ≤ n) : Cmd.ofIndex n = none := by
  obtain ⟨m, rfl⟩ := Nat.exists_eq_add_of_le' h
  rfl

/-- A reserved word is read as a reserved operation, or its argument is reported as reserved. -/
theorem decodeFields_of_reserved {op arg : Nibble} (h : ReservedFields op arg) (rest : List Byte) :
    decodeFields op arg rest = .ok (.reservedOp0 arg, rest) ∨
      decodeFields op arg rest = .ok (.reservedOpF arg, rest) ∨
      decodeFields op arg rest = .error (.reservedArg op arg) := by
  rcases h with rfl | rfl | ⟨rfl, harg⟩ | ⟨rfl, harg⟩ | ⟨hop, harg⟩
  · exact .inl rfl
  · exact .inr (.inl rfl)
  · refine .inr (.inr ?_)
    change (match Cmd.ofIndex arg.toNat with | some k => _ | none => _) = _
    rw [Cmd.ofIndex_eq_none harg]
  · exact .inr (.inr (if_neg (by omega)))
  · simp only [List.mem_cons, List.not_mem_nil, or_false] at hop
    rcases hop with rfl | rfl | rfl | rfl | rfl | rfl | rfl | rfl | rfl | rfl <;> exact .inr (.inr (if_neg harg))

/-- Settles O5: such a word is read as an operation that is refused in every state, or not at all. -/
theorem reservedWordsAreRefused : Obligations.ReservedWordsAreRefused := by
  unfold Obligations.ReservedWordsAreRefused
  intro s operand w rest rs hreqs hreserved
  have hdecode := decodeFields_of_reserved hreserved rest
  simp only [step, hreqs, stepHarness, Request.first, decodeAs, decode]
  rcases hdecode with h | h | h <;> rw [h] <;> rfl

/-- Settles O50: both arms refuse whatever the state is. -/
theorem reservedOperationsStop : Obligations.ReservedOperationsStop := by
  unfold Obligations.ReservedOperationsStop
  exact fun _ _ => ⟨rfl, rfl⟩

end Machine

end Sys2Proof
end

section
/-! PROOFS. Every step keeps the machine's invariant (10_state.md R52). -/

namespace Sys2Proof.Machine

/-! What a completed operation says of its refusal conditions. -/

/-- A condition of an operation that completed did not hold. -/
theorem passed_of_next {cs : List (Bool × Refusal)} {t u : State} (h : guarded cs t = .next u) {c : Bool × Refusal}
    (hc : c ∈ cs) : c.1 = false :=
  (guarded_eq_next.mp h).1 c hc

/-- With a valid id, a condition that waits for the id check was checked. -/
theorem passed_of_ifValid {c : Int} {check : Bool × Refusal} (h : (ifValid c check).1 = false)
    (hc : Chan.ofId c ≠ none) : check.1 = false := by
  simpa [ifValid, Option.isSome_iff_ne_none.mpr hc] using h

theorem outputs_of_passed {s : State} (h : s.linesUnset.1 = false) : s.GPIO_DIR = .outputs := by
  cases hg : s.GPIO_DIR with
  | outputs => rfl
  | unconfigured => simp [State.linesUnset, hg] at h

theorem opened_of_passed {s : State} (h : s.linkClosed.1 = false) : s.LINK.OPENED = true := by
  simpa [State.linkClosed] using h

section

variable {s t u : State} {cs : List (Bool × Refusal)} {c : Int} (h : guarded cs t = .next u)
include h

theorem outputs_of_next (hm : s.linesUnset ∈ cs) : s.GPIO_DIR = .outputs :=
  outputs_of_passed (passed_of_next h hm)

theorem opened_of_next (hm : s.linkClosed ∈ cs) : s.LINK.OPENED = true :=
  opened_of_passed (passed_of_next h hm)

theorem outputs_of_next_of_valid (hm : ifValid c s.linesUnset ∈ cs) (hc : Chan.ofId c ≠ none) :
    s.GPIO_DIR = .outputs :=
  outputs_of_passed (passed_of_ifValid (passed_of_next h hm) hc)

theorem opened_of_next_of_valid (hm : ifValid c s.linkClosed ∈ cs) (hc : Chan.ofId c ≠ none) :
    s.LINK.OPENED = true :=
  opened_of_passed (passed_of_ifValid (passed_of_next h hm) hc)

end

/-! The operations keep the part of the invariant that does not speak of the position. -/

theorem held_of_heldWith {α : Type} {cs : List (Bool × Refusal)} {r : Result α} {ret : α → Returned} {l : Link}
    {g : GpioDir} {t : State} (h : guarded cs (r.settle ret) = .next t) (hr : r.Leaves (HeldWith l g))
    (hret : ∀ v, (ret v).fine) : Held t := by
  obtain ⟨u, hu, he⟩ := effect_of_next h hr hret
  exact held_ends hu.1 he

/-- The duties and the buffers aside, an open link is all that the operations of one exchange need. -/
theorem held_of_xcmd {s t : State} {cs : List (Bool × Refusal)} {k : Cmd} (hs : Held s) (hc : s.linkClosed ∈ cs)
    (h : guarded cs ((xcmdEffect k s).settle fun _ => .ok) = .next t) : Held t :=
  held_of_heldWith h (heldWith_xcmd (opened_of_next h hc) ⟨hs, rfl, rfl⟩ k) fun _ => fine_ok

theorem held_of_xfetch {s t : State} {cs : List (Bool × Refusal)} (hs : Held s) (hc : s.linkClosed ∈ cs)
    (h : guarded cs ((xfetchEffect s).settle .count) = .next t) : Held t :=
  held_of_heldWith h (heldWith_xfetch (opened_of_next h hc) ⟨hs, rfl, rfl⟩) fine_count

theorem held_opened {s : State} (hs : Held s) (mode speed bpw : Nat) : Held (s.opened mode speed bpw) := by
  unfold State.opened
  dsimp only
  split
  · exact { hs with link := nofun, request := hs.request }
  · exact { hs with link := nofun, request := hs.request }

theorem held_openLink {s t : State} (hs : Held s) (h : exec .openLink s = .next t) : Held t := by
  obtain ⟨-, e, ⟨m, v, b, rfl⟩ | ⟨i, rfl⟩⟩ := exec_openLink h
  · exact held_ends (held_opened (s := { s with ENV := e }) { hs with } m v b) (.inl ⟨_, fine_ok, rfl⟩)
  · have hforget : Held (State.forgetEff { s with ENV := e }) :=
      { hs with link := fun ho => hs.link ho, request := hs.request }
    exact held_ends hforget (.inr ⟨_, _, rfl⟩)

theorem held_ginit {s t : State} (hs : Held s) (h : exec .ginit s = .next t) : Held t := by
  obtain ⟨e, rfl | rfl⟩ := exec_ginit h
  · have hdrives : drives (s.TRACE ++ [.gin]) = drives s.TRACE := by simp [drives]
    exact
      { hs with
        accounted := by simpa [bytesMoved_append, bytesMoved, BusEvent.length] using hs.accounted
        lines := fun p hp => hs.lines p (hdrives ▸ hp)
        outputs := nofun
        link := fun ho => by simpa using hs.link ho
        brackets := fun hz => hdrives.symm ▸ hs.brackets hz }
  · exact held_ends (u := { s with ENV := e }) { hs with } (.inr ⟨_, _, rfl⟩)

theorem held_rate {s t : State} (hs : Held s) (h : exec .rate s = .next t) : Held t := by
  rcases exec_rate h with rfl | ⟨tx, rx, rfl⟩
  · exact { hs with }
  · exact { hs with counters := ⟨hs.counters.1, Nat.le_refl _, Nat.le_refl _⟩ }

theorem held_vloop {s t : State} (hs : Held s) (h : exec .vloop s = .next t) : Held t := by
  rcases exec_vloop h with rfl | ⟨o, rfl⟩ | ⟨k, i, rfl⟩
  · exact { hs with }
  · exact { hs with }
  · exact held_ends hs (.inr ⟨_, _, rfl⟩)

/-- Every completed operation keeps it. -/
theorem held_exec {i : Instr} {s t : State} (hs : Held s) (h : exec i s = .next t) : Held t := by
  have hw : HeldWith s.LINK s.GPIO_DIR s := ⟨hs, rfl, rfl⟩
  cases i with
  | openLink => exact held_openLink hs h
  | ginit => exact held_ginit hs h
  | rate => exact held_rate hs h
  | vloop => exact held_vloop hs h
  | arm => rw [exec_arm h]; exact { hs with }
  | emit => rw [exec_emit h]; exact { hs with }
  | dec => obtain ⟨n, -, rfl⟩ := exec_dec h; exact { hs with }
  | desel =>
    have hg := outputs_of_next (s := s) h (by simp)
    exact held_of_heldWith h (heldWith_desel hg hw) fun _ => fine_ok
  | sel c =>
    have hg := outputs_of_next_of_valid (s := s) (c := c) h (by simp)
    exact held_of_heldWith h (heldWith_sel_of_valid c hg hw) fun _ => fine_ok
  | selc =>
    have hg := outputs_of_next_of_valid (s := s) (c := s.CH) h (by simp)
    exact held_of_heldWith h (heldWith_sel_of_valid s.CH hg hw) fun _ => fine_ok
  | addr3 p =>
    have hg := outputs_of_next (s := s) h (by simp)
    exact held_of_heldWith h (heldWith_addr p hg hw) fun _ => fine_ok
  | xcmd k => exact held_of_xcmd hs (by simp) h
  | cmdSelCtrl | cmdSetQuad | cmdSetSec | cmdReadPos => exact held_of_xcmd hs (by simp) h
  | xfetch | fetch32 => exact held_of_xfetch hs (by simp) h
  | rsp32 a b c d =>
    exact held_of_xfetch (s := { s with ENV := s.ENV.answering [a, b, c, d] }) { hs with }
      (show s.linkClosed ∈ _ by simp) h
  | convAngle sel => exact held_of_heldWith h (heldWith_conv _ hw) fun _ => fine_ok
  | xchg tx =>
    have ho := opened_of_next (s := s) h (by simp)
    exact held_of_heldWith h (held_exchange hs ho tx) fine_bytes
  | program c =>
    have ho := opened_of_next_of_valid (s := s) (c := c) h (by simp)
    have hg := outputs_of_next_of_valid (s := s) (c := c) h (by simp)
    exact held_of_heldWith h (heldWith_program c ho hg hw) fun _ => fine_ok
  | readCount c =>
    have ho := opened_of_next_of_valid (s := s) (c := c) h (by simp)
    exact held_of_heldWith h (heldWith_read c ho hw) fine_count
  | progch c =>
    have ho := opened_of_next_of_valid (s := s) (c := c) h (by simp)
    have hg := outputs_of_next (s := s) h (by simp)
    exact held_of_heldWith h (heldWith_progch c ho hg hw) fun _ => fine_ok
  | pollch c =>
    have ho := opened_of_next_of_valid (s := s) (c := c) h (by simp)
    have hg := outputs_of_next_of_valid (s := s) (c := c) h (by simp)
    exact held_of_heldWith h (heldWith_pollch c ho hg hw) fun _ => fine_ok
  | reservedOp0 | reservedOpF => cases h

/-! The part of the invariant that speaks of how the run ends. -/

/-- The fault record and the exit status follow the phase (10_state.md R47, R52 (c)). -/
structure EndsMatch (s : State) : Prop where
  fault : s.FAULT ≠ none ↔ s.PHASE = .halted
  exit : (s.EXIT = .exitedZero ↔ s.PHASE = .done) ∧ (s.EXIT = .exitedNonzero ↔ s.PHASE = .halted)

theorem machineInv_iff {s : State} : MachineInv s ↔ Held s ∧ EndsMatch s := by
  constructor
  · exact fun h => ⟨Held.of_inv h, h.fault, h.exit⟩
  · rintro ⟨h, e⟩
    exact ⟨h.counters, h.accounted, e.fault, e.exit, h.buffers, h.lines, h.outputs, h.link, h.request, h.brackets⟩

/-- Taking an error halts the machine with everything that goes with it, or leaves the phase alone. -/
theorem endsMatch_takeError {s : State} (h : EndsMatch s) (k : ErrKind) (i : ErrInfo) :
    EndsMatch (s.takeError k i) := by
  rcases takeError_cases s k i with ⟨-, e⟩ | ⟨-, e⟩ <;> rw [e]
  · exact ⟨h.fault, h.exit⟩
  · exact ⟨by simp, by simp⟩

theorem endsMatch_exec {i : Instr} {s t : State} (hs : EndsMatch s) (h : exec i s = .next t) : EndsMatch t := by
  obtain ⟨u, ⟨hphase, -, -, hfault, hexit, -⟩, hends⟩ := exec_ends h
  have hu : EndsMatch u := ⟨by rw [hfault, hphase]; exact hs.fault, by rw [hexit, hphase]; exact hs.exit⟩
  rcases hends with ⟨r, -, rfl⟩ | ⟨k, i, rfl⟩
  · exact ⟨hu.fault, hu.exit⟩
  · exact endsMatch_takeError hu k i

/-- The position never advances to `Halted`, and entering `Done` sets the exit status (43_polling_loop.md R190). -/
theorem endsMatch_advance {s : State} (hs : EndsMatch s) (hl : s.live) : EndsMatch s.advance := by
  have hnext : s.nextPos.1 ≠ .halted := nextPos_ne_halted hl.2
  have hfault : s.FAULT = none := not_not.mp fun h => hl.2 (hs.fault.mp h)
  have hzero : s.EXIT ≠ .exitedZero := fun h => hl.1 (hs.exit.1.mp h)
  have hnonzero : s.EXIT ≠ .exitedNonzero := fun h => hl.2 (hs.exit.2.mp h)
  by_cases hdone : s.nextPos.1 = .done
  · exact ⟨by simp [hfault, hdone], by simp [hdone]⟩
  · exact ⟨by simp [hfault, hnext], by simp [hdone, hnext, hzero, hnonzero]⟩

/-- An operation of a live machine that did not halt it leaves it live. -/
theorem live_of_exec {i : Instr} {s t : State} (hl : s.live) (h : exec i s = .next t) (ht : t.PHASE ≠ .halted) :
    t.live := by
  obtain ⟨u, ⟨hphase, -⟩, ⟨r, -, rfl⟩ | ⟨k, i, rfl⟩⟩ := exec_ends h
  · exact ⟨fun e => hl.1 (hphase ▸ e), ht⟩
  · rcases takeError_cases u k i with ⟨-, e⟩ | ⟨-, e⟩ <;> rw [e] at ht ⊢
    · exact ⟨fun e => hl.1 (hphase ▸ e), ht⟩
    · exact absurd rfl ht

/-- Settles O54: the operations keep both parts of the invariant, and so do the check of the configuration and the
advance of the position. -/
theorem stepKeepsTheInvariant : Obligations.StepKeepsTheInvariant := by
  unfold Obligations.StepKeepsTheInvariant
  intro s t hs h
  obtain ⟨hheld, hends⟩ := machineInv_iff.mp hs
  refine machineInv_iff.mpr ?_
  by_cases hreqs : s.REQS = []
  case neg =>
    obtain ⟨i, u, left, hexec, rfl⟩ := step_harness hreqs h
    have hu := held_exec hheld hexec
    have he := endsMatch_exec hends hexec
    exact ⟨{ hu with }, ⟨he.fault, he.exit⟩⟩
  case pos =>
    obtain ⟨hl, ⟨-, rfl⟩ | ⟨w, i, u, -, -, -, hexec, rfl⟩⟩ := step_sequencer hreqs h
    · exact ⟨held_ends hheld (.inr ⟨_, _, rfl⟩), endsMatch_takeError hends _ _⟩
    · have hu := held_exec hheld hexec
      have he := endsMatch_exec hends hexec
      split
      case isTrue => exact ⟨hu, he⟩
      case isFalse hhalted => exact ⟨held_advance hu, endsMatch_advance he (live_of_exec hl hexec hhalted)⟩

/-! Process start. -/

theorem machineInv_resetWith (cfg : Cfg) (levels : Pattern) (eff : LinkParams) (env : Environment) :
    MachineInv (State.resetWith cfg levels eff env) where
  counters := ⟨rfl, Nat.le_refl _, Nat.le_refl _⟩
  accounted := rfl
  fault := by simp [State.resetWith]
  exit := by simp [State.resetWith]
  buffers := ⟨rfl, rfl⟩
  lines := nofun
  outputs _ := rfl
  link _ := ⟨nofun, rfl⟩
  request := rfl
  brackets _ := trivial

theorem sequencerInv_resetWith (cfg : Cfg) (levels : Pattern) (eff : LinkParams) (env : Environment) :
    SequencerInv (State.resetWith cfg levels eff env) where
  alone := rfl
  noBreach := rfl
  noFault _ := rfl
  position := ⟨rfl, rfl, rfl, rfl, rfl, .inl ⟨rfl, rfl⟩⟩

/-- Settles O55: nothing has happened yet, whatever the configuration and the unspecified values are. -/
theorem resetMeetsTheInvariant : Obligations.ResetMeetsTheInvariant := by
  unfold Obligations.ResetMeetsTheInvariant
  exact ⟨machineInv_resetWith _ _ _ _, machineInv_resetWith⟩

/-- Settles O57: the sequencer stands at (Setup, 0, 0) with the link closed. -/
theorem resetMeetsTheSequencerInvariant : Obligations.ResetMeetsTheSequencerInvariant := by
  unfold Obligations.ResetMeetsTheSequencerInvariant
  exact ⟨sequencerInv_resetWith _ _ _ _, sequencerInv_resetWith⟩

end Sys2Proof.Machine
end

section
/-! PROOFS. Operations complete exactly where the list of refusals leaves them a meaning (70_reset_and_hazards.md
R262). -/

namespace Sys2Proof.Machine

/-! The refusal conditions as propositions. -/

@[simp] theorem inTerminal_passed {s : State} : s.inTerminal.1 = false ↔ s.live := live_iff_not_terminal.symm

@[simp] theorem linkClosed_passed {s : State} : s.linkClosed.1 = false ↔ s.LINK.OPENED = true := by
  simp [State.linkClosed]

@[simp] theorem notAdmitted_passed {s : State} : s.notAdmitted.1 = false ↔ s.admitted = true := by
  simp [State.notAdmitted]

@[simp] theorem linesUnset_passed {s : State} : s.linesUnset.1 = false ↔ s.GPIO_DIR = .outputs := by
  cases h : s.GPIO_DIR <;> simp [State.linesUnset, h]

@[simp] theorem ifValid_passed {c : Int} {check : Bool × Refusal} :
    (ifValid c check).1 = false ↔ (validId c → check.1 = false) := by
  have hvalid : (Chan.ofId c).isSome = true ↔ validId c := Chan.ofId_isSome
  by_cases hc : validId c
  · simp [ifValid, hvalid.mpr hc, hc]
  · simp [ifValid, Bool.eq_false_iff.mpr (mt hvalid.mp hc), hc]

theorem noCycle_eq_false {s : State} : s.noCycle = false ↔ ∃ n, s.CYC = some (n + 1) := by
  unfold State.noCycle
  cases s.CYC with
  | none => simp
  | some n => cases n <;> simp

theorem someUnset_eq_false {s : State} : s.someUnset = false ↔ ∀ c ∈ s.CFG.channels, s.RES.get c ≠ none := by
  simp [State.someUnset]

theorem latestExchange_isNone_eq_false {s : State} :
    s.latestExchange.isNone = false ↔ ∃ a tx rx, BusEvent.xfr a tx rx ∈ s.TRACE := by
  rw [← Bool.not_eq_true, Option.isNone_iff_eq_none, State.latestExchange, List.findSome?_eq_none_iff]
  constructor
  · intro h
    by_contra hnone
    refine h fun e he => ?_
    cases e with
    | xfr a tx rx => exact absurd ⟨a, tx, rx, List.mem_reverse.mp he⟩ hnone
    | gin | drv => rfl
  · rintro ⟨a, tx, rx, hmem⟩ h
    cases h _ (List.mem_reverse.mpr hmem)

theorem unusedPattern_eq_false {cfg : Cfg} {p : Pattern} :
    (p != cfg.IDLE_PATTERN && (cfg.channelOf p).isNone) = false ↔ usedPattern cfg p := by
  rw [Bool.and_eq_false_iff, bne_eq_false_iff_eq, ← Bool.not_eq_true (Option.isNone _), Option.isNone_iff_eq_none,
    Cfg.channelOf_eq_none, usedPattern]
  simp only [not_forall, not_not, eq_comm]

/-! The outcome of a guarded operation. -/

/-- A guarded operation completes where none of its conditions holds, and is refused by one of them elsewhere. -/
theorem guarded_complete {cs : List (Bool × Refusal)} {t : State} {P : Prop} (hP : P ↔ ∀ c ∈ cs, c.1 = false)
    (hname : ∀ c ∈ cs, ∀ m, c.2 ≠ .notModelled m) :
    (P → ∃ u, guarded cs t = .next u) ∧ (¬ P → ∃ r, guarded cs t = .refused r ∧ ∀ m, r ≠ .notModelled m) := by
  rw [hP]
  clear hP
  induction cs with
  | nil => simp
  | cons c cs ih =>
    obtain ⟨b, r⟩ := c
    have ih := ih fun c hc => hname c (List.mem_cons_of_mem _ hc)
    cases b with
    | false => simpa using ih
    | true => exact ⟨fun h => by simp at h, fun _ => ⟨r, rfl, hname _ List.mem_cons_self⟩⟩

/-- The slot that `CONV s` writes, as an id. -/
theorem slot_cast (s : State) (sel : Nat) : ((s.slot sel : Nat) : Int) = if sel = 0 then (s.CH : Int) else sel := by
  unfold State.slot
  split <;> rfl

/-- A slot is converted into where it is a channel's, which 0 is not (R262 (d), (e)). -/
theorem slot_passed {n : Nat} : (n == 0) = false ∧ (Chan.ofId n).isNone = false ↔ validId n := by
  rw [← Option.not_isSome, Bool.not_eq_false', Chan.ofId_isSome, validId, beq_eq_false_iff_ne]
  omega

/-- Settles O49: the conditions that guard an operation are the negations of its prerequisites, one by one, and none of
them is that of an operation without a meaning. -/
theorem operationsCompleteUnlessRefused : Obligations.OperationsCompleteUnlessRefused := by
  unfold Obligations.OperationsCompleteUnlessRefused
  intro i s
  cases i
  case reservedOp0 | reservedOpF => exact ⟨fun h => h.2.elim, fun _ => ⟨_, rfl, nofun⟩⟩
  all_goals
    refine guarded_complete ?_
      (by simp [State.inTerminal, State.linkClosed, State.notAdmitted, State.linesUnset, ifValid])
    simp only [List.forall_mem_cons, List.not_mem_nil, false_implies, implies_true, and_true, imp_and,
      inTerminal_passed, linkClosed_passed, notAdmitted_passed, linesUnset_passed, ifValid_passed, prerequisites,
      State.linkReady]
  case selc => rw [beq_eq_false_iff_ne]
  case convAngle sel =>
    rw [← and_assoc (a := (s.slot sel == 0) = false), slot_passed, slot_cast, Option.isNone_eq_false_iff,
      Option.isSome_iff_ne_none]
  case emit => rw [someUnset_eq_false]
  case rate => rw [Option.isNone_eq_false_iff, Option.isSome_iff_ne_none]
  case dec => rw [noCycle_eq_false]
  case vloop => rw [latestExchange_isNone_eq_false]
  case addr3 p => rw [unusedPattern_eq_false, usedPattern]

end Sys2Proof.Machine
end

section
/-! PROOFS. What an operation leaves alone, and what only grows (10_state.md R21 to R48). -/

namespace Sys2Proof.Machine

/-! The effect of an operation, before its outcome is taken. -/

/-- What the effect of an operation leaves alone and what it only extends, for every operation: `Within` for the plain
ones, with the writers of `LINK`, `GPIO_DIR`, the snapshots, `LAST_T`, `CYC` and `OUT` beside it. -/
structure Effect (i : Instr) (s u : State) : Prop where
  position : u.PHASE = s.PHASE ∧ u.CH = s.CH ∧ u.STEP = s.STEP
  ends : u.FAULT = s.FAULT ∧ u.EXIT = s.EXIT
  constant : u.CFG = s.CFG ∧ u.REQS = s.REQS
  lines : i.drives = false → u.A = s.A
  direction : i ≠ .ginit → u.GPIO_DIR = s.GPIO_DIR
  link : i ≠ .openLink → u.LINK = s.LINK
  moved : i.exchanges = false → u.SENT = s.SENT ∧ u.RCVD = s.RCVD ∧ u.TXBUF = s.TXBUF ∧ u.RXBUF = s.RXBUF
  count : i.writesCount = false → u.CNT = s.CNT
  result : i.writesResult = false → u.RES = s.RES
  programs : i.programs = false → u.ENC = s.ENC
  duty : i.checksDuty = false → u.HAZ = s.HAZ
  snapshots : i ≠ .rate → u.SNAP_SENT = s.SNAP_SENT ∧ u.SNAP_RCVD = s.SNAP_RCVD
  stamp : i ≠ .rate → i ≠ .arm → u.LAST_T = s.LAST_T
  cycles : i ≠ .arm → i ≠ .dec → u.CYC = s.CYC
  events : i.drives = false → i.exchanges = false → i ≠ .ginit → u.TRACE = s.TRACE
  asks : i.asks = false → u.ENV = s.ENV
  silent : i ∉ [.openLink, .emit, .rate] → i.exchanges = false → i ≠ .vloop → u.OUT = s.OUT
  trace : s.TRACE <+: u.TRACE
  out : s.OUT <+: u.OUT
  sent : s.SENT ≤ u.SENT ∧ s.RCVD ≤ u.RCVD
  configured : ∀ c, s.ENC.get c = .configured → u.ENC.get c = .configured
  breached : s.HAZ = true → u.HAZ = true
  opened : s.LINK.OPENED = true → u.LINK = s.LINK
  outputs : s.GPIO_DIR = .outputs → u.GPIO_DIR = .outputs

/-- The plain operations write none of the elements that `Within` keeps. -/
theorem Effect.of_within {i : Instr} {s u : State} (h : Within (Kinds.ofInstr i) s u) : Effect i s u where
  position := h.position
  ends := h.ends
  constant := ⟨h.constant.1, h.constant.2.1⟩
  lines := h.lines
  direction _ := h.constant.2.2.2.1
  link _ := h.constant.2.2.1
  moved hx := by
    obtain ⟨h1, h2, h3, h4, -⟩ := h.moved hx
    exact ⟨h1, h2, h3, h4⟩
  count := h.count
  result := h.result
  programs := h.programs
  duty := h.duty
  snapshots _ := ⟨h.reports.1, h.reports.2.1⟩
  stamp _ _ := h.reports.2.2
  cycles _ _ := h.constant.2.2.2.2
  events hd hx _ := h.events hd hx
  asks := h.asks
  silent _ hx _ := by
    obtain ⟨-, -, -, -, h5⟩ := h.moved hx
    exact h5
  trace := h.trace
  out := h.out
  sent := h.sent
  configured := h.configured
  breached := h.breached
  opened _ := h.constant.2.2.1
  outputs hg := h.constant.2.2.2.1.trans hg

theorem Effect.refl (i : Instr) (s : State) : Effect i s s := .of_within (.refl _ s)

theorem effect_opened {s : State} (ho : s.LINK.OPENED = false) (e : Environment) (mode speed bpw : Nat) :
    Effect .openLink s (({ s with ENV := e } : State).opened mode speed bpw) := by
  unfold State.opened
  dsimp only
  split
  · exact
      { Effect.refl .openLink s with
        link := fun h => absurd rfl h
        asks := nofun
        opened := fun h => by simp [ho] at h }
  · exact
      { Effect.refl .openLink s with
        link := fun h => absurd rfl h
        asks := nofun
        silent := fun h => by simp at h
        out := ⟨_, rfl⟩
        opened := fun h => by simp [ho] at h }

theorem effect_forgetEff {s : State} (ho : s.LINK.OPENED = false) (e : Environment) :
    Effect .openLink s ({ s with ENV := e } : State).forgetEff :=
  { Effect.refl .openLink s with
    link := fun h => absurd rfl h
    asks := nofun
    opened := fun h => by simp [ho] at h }

/-- Every completed operation has had its effect and then ended with a value or by taking an error. -/
theorem exec_effect {i : Instr} {s t : State} (h : exec i s = .next t) : ∃ u, Effect i s u ∧ Ends u t := by
  by_cases hp : isPlain i = true
  case pos =>
    obtain ⟨u, hu, he⟩ := exec_plain hp h
    exact ⟨u, .of_within hu, he⟩
  case neg =>
  cases i with
  | openLink =>
    obtain ⟨ho, e, ⟨m, v, b, rfl⟩ | ⟨i, rfl⟩⟩ := exec_openLink h
    · exact ⟨_, effect_opened ho e m v b, .inl ⟨_, fine_ok, rfl⟩⟩
    · exact ⟨_, effect_forgetEff ho e, .inr ⟨_, _, rfl⟩⟩
  | ginit =>
    obtain ⟨e, rfl | rfl⟩ := exec_ginit h
    · exact ⟨{ s with ENV := e, GPIO_DIR := .outputs, TRACE := s.TRACE ++ [.gin] },
        { Effect.refl .ginit s with
          direction := fun h => absurd rfl h
          events := fun _ _ h => absurd rfl h
          asks := nofun
          trace := ⟨_, rfl⟩
          outputs := fun _ => rfl }, .inl ⟨_, fine_ok, rfl⟩⟩
    · exact ⟨{ s with ENV := e }, { Effect.refl .ginit s with asks := nofun }, .inr ⟨_, _, rfl⟩⟩
  | arm =>
    exact ⟨{ s with CYC := some s.CFG.cycles, LAST_T := some s.ENV.now.1, ENV := s.ENV.now.2 },
      { Effect.refl .arm s with
        stamp := fun _ h => absurd rfl h
        cycles := fun h => absurd rfl h
        asks := nofun }, .inl ⟨_, fine_ok, exec_arm h⟩⟩
  | emit =>
    exact ⟨s.emit _, { Effect.refl .emit s with silent := fun h => by simp at h, out := ⟨_, rfl⟩ },
      .inl ⟨_, fine_ok, exec_emit h⟩⟩
  | dec =>
    obtain ⟨n, -, e⟩ := exec_dec h
    exact ⟨{ s with CYC := some n }, { Effect.refl .dec s with cycles := fun _ h => absurd rfl h },
      .inl ⟨_, fine_ok, e⟩⟩
  | rate =>
    rcases exec_rate h with e | ⟨tx, rx, e⟩
    · exact ⟨{ s with ENV := s.ENV.now.2 }, { Effect.refl .rate s with asks := nofun }, .inl ⟨_, fine_report _, e⟩⟩
    · exact ⟨State.reported { s with ENV := s.ENV.now.2 } s.ENV.now.1 tx rx,
        { Effect.refl .rate s with
          snapshots := fun h => absurd rfl h
          stamp := fun h => absurd rfl h
          asks := nofun
          silent := fun h => by simp at h
          out := ⟨_, rfl⟩ }, .inl ⟨_, fine_report _, e⟩⟩
  | vloop =>
    rcases exec_vloop h with e | ⟨o, e⟩ | ⟨k, i, e⟩
    · exact ⟨s, Effect.refl .vloop s, .inl ⟨_, fine_ok, e⟩⟩
    · exact ⟨s.emit o, { Effect.refl .vloop s with silent := fun _ _ h => absurd rfl h, out := ⟨_, rfl⟩ },
        .inl ⟨_, fine_ok, e⟩⟩
    · exact ⟨s, Effect.refl .vloop s, .inr ⟨k, i, e⟩⟩
  | reservedOp0 | reservedOpF => cases h
  | _ => exact absurd rfl hp

/-- Settles O51: the frame of the effect, and that of taking the outcome. -/
theorem operationsLeaveTheRestAlone : Obligations.OperationsLeaveTheRestAlone := by
  unfold Obligations.OperationsLeaveTheRestAlone
  intro i s t h
  obtain ⟨u, hu, he⟩ := exec_effect h
  obtain ⟨⟨hch, hstep, hcfg, hreqs⟩, hA, hdir, hlink, hsent, hrcvd, htx, hrx, hcnt, hres, henc, hhaz, hss, hsr, hlast,
    hcyc, htrace, henv, -, hfine⟩ := ends_frame he
  obtain ⟨hphase, hch', hstep'⟩ := hu.position
  rw [hch, hstep, hcfg, hreqs, hA, hdir, hlink, hsent, hrcvd, htx, hrx, hcnt, hres, henc, hhaz, hss, hsr, hlast,
    hcyc, htrace, henv]
  refine ⟨⟨hch', hstep', hu.constant⟩, hu.lines, hu.direction, hu.link, hu.moved, hu.count, hu.result, hu.programs,
    hu.duty, hu.snapshots, hu.stamp, hu.cycles, hu.events, hu.asks, fun hno => ?_⟩
  obtain ⟨hphase', hfault, hexit, hout⟩ := hfine (by rwa [hu.constant.2])
  exact ⟨hphase'.trans hphase, hfault.trans hu.ends.1, hexit.trans hu.ends.2, fun h1 h2 h3 =>
    hout.trans (hu.silent h1 h2 h3)⟩

/-! Steps. -/

/-- What only grows (10_state.md R33, R35, R36, R45, R46, R48). -/
structure Grows (s t : State) : Prop where
  trace : s.TRACE <+: t.TRACE
  out : s.OUT <+: t.OUT
  sent : s.SENT ≤ t.SENT
  rcvd : s.RCVD ≤ t.RCVD
  configured : ∀ c, s.ENC.get c = .configured → t.ENC.get c = .configured
  breached : s.HAZ = true → t.HAZ = true
  opened : s.LINK.OPENED = true → t.LINK = s.LINK
  constant : t.CFG = s.CFG
  outputs : s.GPIO_DIR = .outputs → t.GPIO_DIR = .outputs

theorem Grows.of_ends {i : Instr} {s u t : State} (hu : Effect i s u) (he : Ends u t) : Grows s t := by
  obtain ⟨⟨-, -, hcfg, -⟩, -, hdir, hlink, hsent, hrcvd, -, -, -, -, henc, hhaz, -, -, -, -, htrace, -, hout, -⟩ :=
    ends_frame he
  constructor
  case trace => rw [htrace]; exact hu.trace
  case out => exact hu.out.trans hout
  case sent => rw [hsent]; exact hu.sent.1
  case rcvd => rw [hrcvd]; exact hu.sent.2
  case configured => rw [henc]; exact hu.configured
  case breached => rw [hhaz]; exact hu.breached
  case opened => rw [hlink]; exact hu.opened
  case constant => rw [hcfg]; exact hu.constant.1
  case outputs => rw [hdir]; exact hu.outputs

theorem grows_exec {i : Instr} {s t : State} (h : exec i s = .next t) : Grows s t := by
  obtain ⟨u, hu, he⟩ := exec_effect h
  exact .of_ends hu he

theorem grows_step {s t : State} (h : step s = .next t) : Grows s t := by
  by_cases hreqs : s.REQS = []
  case neg =>
    obtain ⟨i, u, left, hexec, rfl⟩ := step_harness hreqs h
    exact { grows_exec hexec with }
  case pos =>
    obtain ⟨-, ⟨-, rfl⟩ | ⟨w, i, u, -, -, -, hexec, rfl⟩⟩ := step_sequencer hreqs h
    · exact .of_ends (i := .desel) (.refl _ s) (.inr ⟨_, _, rfl⟩)
    · split
      · exact grows_exec hexec
      · exact { grows_exec hexec with }

/-- Settles O52: the operation of the step extends each of them, and the advance leaves them alone. -/
theorem historyOnlyGrows : Obligations.HistoryOnlyGrows := by
  unfold Obligations.HistoryOnlyGrows
  intro s t h
  obtain ⟨h1, h2, h3, h4, h5, h6, h7, h8, h9⟩ := grows_step h
  exact ⟨h1, h2, h3, h4, h5, h6, h7, h8, h9⟩

/-- Settles O45: with a request pending no error halts, and no operation writes the position by itself. -/
theorem harnessNeverHalts : Obligations.HarnessNeverHalts := by
  unfold Obligations.HarnessNeverHalts
  intro s t hreqs h
  obtain ⟨i, u, left, hexec, rfl⟩ := step_harness hreqs h
  obtain ⟨⟨hch, hstep, -⟩, -, -, -, -, -, -, -, -, -, -, -, -, -, hends⟩ := operationsLeaveTheRestAlone i s u hexec
  obtain ⟨hphase, hfault, hexit, -⟩ := hends (.inr hreqs)
  exact ⟨hphase, hch, hstep, hfault, hexit⟩

end Sys2Proof.Machine
end

section
/-! PROOFS. Steps: the requests of a harness, the words of the ROM, the advance of the position, and how a run begins
and ends (43_polling_loop.md R175 to R191, 60_exceptions.md R217, R224 to R228). -/

namespace Sys2Proof.Machine

/-! A harness's request (60_exceptions.md R228). -/

theorem step_of_first {s : State} {r : Request} {rs left : List Request} {i : Instr} (hreqs : s.REQS = r :: rs)
    (hfirst : r.first s.CFG = .ok (i, left)) : step s = issued (left ++ rs) (exec i s) := by
  simp only [step, hreqs, stepHarness, hfirst]

theorem first_coded {cfg : Cfg} {fmt : Format} {operand : Int} {bs rest : List Byte} {i : Instr}
    (h : decodeAs cfg fmt operand bs = .ok (i, rest)) :
    (Request.coded fmt operand bs).first cfg = .ok (i, restOf fmt operand rest) := by
  simp only [Request.first, h]

/-- Settles O6: both kinds of request give the instruction and what is left of the request. -/
theorem harnessStepRunsTheDecodedInstruction : Obligations.HarnessStepRunsTheDecodedInstruction := by
  unfold Obligations.HarnessStepRunsTheDecodedInstruction
  intro s rs left i h
  have hstep : step s = issued (left ++ rs) (exec i s) := by
    rcases h with ⟨fmt, operand, bs, rest, hreqs, hdecode, rfl⟩ | ⟨hreqs, rfl⟩
    · exact step_of_first hreqs (first_coded hdecode)
    · exact step_of_first hreqs rfl
  rw [hstep]
  exact ⟨fun t ht => by rw [ht]; rfl, fun r hr => by rw [hr]; rfl, fun f hf => by rw [hf]; rfl⟩

/-! The sequencer's step (43_polling_loop.md R175). -/

theorem configRejected_iff {s : State} :
    s.configRejected = true ↔ s.PHASE = .setup ∧ s.CH = 0 ∧ s.STEP = 0 ∧ s.CFG.wf = false := by
  simp [State.configRejected, and_assoc]

/-- The sequencer issues the instruction at its position and then advances. -/
theorem step_of_romWord {s : State} {w : Byte} {i : Instr} (hreqs : s.REQS = []) (hl : s.live)
    (haccepted : s.configRejected = false) (hw : romWord s.CFG.N s.PHASE s.CH s.STEP = some w)
    (hdecode : decode [w] = .ok (i, [])) : step s = advanceUnlessHalted (exec i s) := by
  simp only [step, hreqs, stepSequencer, live_iff_not_terminal.mp hl, hw, haccepted, hdecode, Bool.false_eq_true,
    if_false]

/-- Settles O7: the step is the operation followed by the advance, by what the operation answers. -/
theorem sequencerStepRunsTheRomWord : Obligations.SequencerStepRunsTheRomWord := by
  unfold Obligations.SequencerStepRunsTheRomWord
  intro s w i hreqs hl haccepted hw hdecode
  rw [← configRejected_iff, Bool.not_eq_true] at haccepted
  rw [step_of_romWord hreqs hl haccepted hw hdecode]
  refine ⟨fun t ht hrun => ?_, fun t ht hhalt => ?_, fun r hr => ?_⟩
  · rw [ht, advanceUnlessHalted, if_neg hrun]
  · rw [ht, advanceUnlessHalted, if_pos hhalt]
  · rw [hr, advanceUnlessHalted]

/-- Settles O10: the phase refuses every operation first, a harness's step is an operation or undecodable bytes, and the
sequencer's step asks for the phase first. -/
theorem terminalPhasesRunNothing : Obligations.TerminalPhasesRunNothing := by
  unfold Obligations.TerminalPhasesRunNothing
  intro s hdead
  have hexec : ∀ i, ∃ r, exec i s = .refused r := fun i =>
    have ⟨r, hr, _⟩ := (operationsCompleteUnlessRefused i s).2 fun h => hdead h.1
    ⟨r, hr⟩
  refine ⟨hexec, ?_⟩
  cases hreqs : s.REQS with
  | nil =>
    have hterminal : s.PHASE.terminal = true := by rwa [live_iff_not_terminal, Bool.not_eq_false] at hdead
    exact ⟨.terminalPhase, by simp only [step, hreqs, stepSequencer, hterminal, if_true]⟩
  | cons r rs =>
    cases hfirst : r.first s.CFG with
    | error e => exact ⟨refusalOf e, by simp only [step, hreqs, stepHarness, hfirst]⟩
    | ok first =>
      obtain ⟨i, left⟩ := first
      obtain ⟨why, hwhy⟩ := hexec i
      exact ⟨why, by rw [step_of_first hreqs hfirst, hwhy]; rfl⟩

/-! The advance (43_polling_loop.md R177). -/

theorem nextPosition_programming (n : Nat) (cyc : Option Nat) (c : Nat) {k : Nat} (hk : k ≤ 10) :
    nextPosition n cyc .programming c k = (.programming, c, k + 1) := by
  interval_cases k <;> rfl

theorem nextPosition_programming_last (n : Nat) (cyc : Option Nat) (c : Nat) :
    nextPosition n cyc .programming c 11 = if c < n then (.programming, c + 1, 0) else (.ready, 0, 0) := rfl

theorem nextPosition_polling (n : Nat) (cyc : Option Nat) {c k : Nat} (hc : 1 ≤ c) (hk : k ≤ 3) :
    nextPosition n cyc .polling c k = (.polling, c, k + 1) := by
  obtain ⟨c, rfl⟩ := Nat.exists_eq_add_of_le' hc
  interval_cases k <;> rfl

theorem nextPosition_polling_last (n : Nat) (cyc : Option Nat) {c : Nat} (hc : 1 ≤ c) :
    nextPosition n cyc .polling c 4 = if c < n then (.polling, c + 1, 0) else (.polling, 0, 5) := by
  obtain ⟨c, rfl⟩ := Nat.exists_eq_add_of_le' hc
  rfl

theorem nextPosition_polling_dec (n : Nat) (cyc : Option Nat) :
    nextPosition n cyc .polling 0 7 = if cyc.getD 0 > 0 then (.polling, 1, 0) else (.done, 0, 0) := rfl

/-- Settles O9: the rows of the successor function, and the advance as the update it is. -/
theorem advanceFollowsNext : Obligations.AdvanceFollowsNext := by
  unfold Obligations.AdvanceFollowsNext
  intro s
  have hnext : ∀ {p c k}, s.PHASE = p → s.CH = c → s.STEP = k →
      (s.advance.PHASE, s.advance.CH, s.advance.STEP) = nextPosition s.CFG.N s.CYC p c k := by
    rintro p c k rfl rfl rfl
    rfl
  refine ⟨hnext, hnext, fun hp hk => ?step, fun hp hk hc => ?nextChannel, fun hp hk hc => ?ready, hnext,
    fun hp hc hk => ?pollStep, fun hp hc hk hlt => ?nextPoll, fun hp hc hk hN => ?lastPoll, hnext, hnext,
    fun n hp hc hk hcyc => ?again, fun hp hc hk hcyc => ?done, rfl, fun hrun => if_neg hrun⟩
  case step => exact (hnext hp rfl rfl).trans (nextPosition_programming _ _ _ hk)
  case nextChannel => rw [hnext hp rfl hk, nextPosition_programming_last, if_pos hc]
  case ready => rw [hnext hp rfl hk, nextPosition_programming_last, if_neg (by omega)]
  case pollStep => exact (hnext hp rfl rfl).trans (nextPosition_polling _ _ hc hk)
  case nextPoll => rw [hnext hp rfl hk, nextPosition_polling_last _ _ hc, if_pos hlt]
  case lastPoll => rw [hnext hp rfl hk, nextPosition_polling_last _ _ hc, if_neg (by omega)]
  case again => rw [hnext hp hc hk, nextPosition_polling_dec, hcyc, if_pos (by simp)]
  case done =>
    have hpos : s.nextPos = (.done, 0, 0) := by
      rw [State.nextPos, hp, hc, hk, nextPosition_polling_dec, hcyc, if_neg (by simp)]
    rw [State.advance, hpos, if_pos rfl]

/-! Errors (60_exceptions.md R224 to R228). -/

/-- Settles O43: the two ways an error is taken. -/
theorem errorHaltsTheSequencerOnly : Obligations.ErrorHaltsTheSequencerOnly := by
  unfold Obligations.ErrorHaltsTheSequencerOnly
  intro s kind info
  rcases takeError_cases s kind info with ⟨h, e⟩ | ⟨h, e⟩
  · exact ⟨fun h' => absurd h' h, fun _ => e⟩
  · exact ⟨fun _ => e, fun h' => absurd h h'⟩

/-! The check of the configuration (43_polling_loop.md R178, 00_scope.md R8). -/

theorem step_of_ill_formed {s : State} (hreqs : s.REQS = []) (hphase : s.PHASE = .setup) (hch : s.CH = 0)
    (hstep : s.STEP = 0) (hwf : s.CFG.wf = false) :
    step s = .next (s.takeError .configurationError (.conflictingOptions s.CFG.failures)) := by
  have hrejected : s.configRejected = true := configRejected_iff.mpr ⟨hphase, hch, hstep, hwf⟩
  simp only [step, hreqs, stepSequencer, hphase, hch, hstep, romWord, Phase.terminal, Bool.false_eq_true, if_false,
    hrejected, if_true, State.rejectConfig]

/-- Settles O47: the error of the check is taken by the sequencer. -/
theorem illFormedConfigurationHaltsFirst : Obligations.IllFormedConfigurationHaltsFirst := by
  unfold Obligations.IllFormedConfigurationHaltsFirst
  intro s hreqs hphase hch hstep hwf
  rw [step_of_ill_formed hreqs hphase hch hstep hwf, (errorHaltsTheSequencerOnly s _ _).1 hreqs]
  rfl

/-! The conditions that fail. Each is reported exactly when it does not hold. -/

/-- A condition with its name stands in the list once, so that it is reported exactly when it fails. -/
theorem mem_failures {cfg : Cfg} {name : CfgCondition} :
    name ∈ cfg.failures ↔ (name, false) ∈ cfg.conditions := by
  simp [Cfg.failures]

/-- The table is injective, channel by channel. -/
theorem nodup_pattern_iff {cfg : Cfg} :
    (Chan.all.map cfg.pattern).Nodup ↔ ∀ c d, cfg.SEL_TABLE.get c = cfg.SEL_TABLE.get d → c = d := by
  rw [List.nodup_map_iff_inj_on (by decide)]
  exact ⟨fun h c d => h c (Chan.mem_all c) d (Chan.mem_all d), fun h c _ d _ => h c d⟩

theorem idle_mem_table_iff {cfg : Cfg} :
    cfg.IDLE_PATTERN ∈ Chan.all.map cfg.pattern ↔ ∃ c, cfg.SEL_TABLE.get c = cfg.IDLE_PATTERN := by
  rw [List.mem_map]
  exact ⟨fun ⟨c, _, h⟩ => ⟨c, h⟩, fun ⟨c, h⟩ => ⟨c, Chan.mem_all c, h⟩⟩

/-- Settles O48: the first step of an ill-formed configuration is its error, and the conditions are those of
00_scope.md R8, each reported by its name. -/
theorem wellFormedConfigurations : Obligations.WellFormedConfigurations := by
  unfold Obligations.WellFormedConfigurations
  intro cfg
  refine ⟨fun hwf levels eff env => ?firstStep, ?wf, ?_, ?cycles, ?_, ?table, ?idle, ?_⟩
  case firstStep =>
    refine ⟨_, step_of_ill_formed rfl rfl rfl rfl hwf, ?_⟩
    rw [(errorHaltsTheSequencerOnly _ _ _).1 rfl]
    exact ⟨rfl, rfl, rfl, rfl, rfl⟩
  case wf =>
    rw [Cfg.wf_iff, nodup_pattern_iff]
    exact Iff.rfl
  case table =>
    have hreport : .tableInjective ∈ cfg.failures ↔ ¬ (Chan.all.map cfg.pattern).Nodup := by
      simp [mem_failures, Cfg.conditions]
    rw [hreport, nodup_pattern_iff]
    simp only [not_forall, exists_prop, and_comm, ne_eq]
  case idle =>
    have hreport : .idleNotInTable ∈ cfg.failures ↔ cfg.IDLE_PATTERN ∈ Chan.all.map cfg.pattern := by
      simp [mem_failures, Cfg.conditions]
    rw [hreport, idle_mem_table_iff]
  case cycles =>
    change .cycleCount ∈ cfg.failures ↔ ¬ 1 ≤ cfg.cycles
    simp [mem_failures, Cfg.conditions]
  all_goals simp [mem_failures, Cfg.conditions]

end Sys2Proof.Machine
end

section
/-! PROOFS. The errors of the sequencer's operations (43_polling_loop.md R191). -/

namespace Sys2Proof.Machine

/-- What an operation of the sequencer that erred did before: nothing but asking an oracle and noting a breach, unless
it was a mismatching exchange, which is counted and recorded (60_exceptions.md R219), or an `OPEN`, which may leave
other effective values (40_transport.md R121). -/
structure Erred (s : State) (kind : ErrKind) (info : ErrInfo) (u : State) : Prop where
  kept : u.CH = s.CH ∧ u.STEP = s.STEP ∧ u.A = s.A ∧ u.OUT = s.OUT ∧ u.REQS = s.REQS
  frame : u.GPIO_DIR = s.GPIO_DIR ∧ u.CNT = s.CNT ∧ u.RES = s.RES ∧ u.ENC = s.ENC ∧ u.SNAP_SENT = s.SNAP_SENT ∧
    u.SNAP_RCVD = s.SNAP_RCVD ∧ u.LAST_T = s.LAST_T ∧ u.CYC = s.CYC ∧ u.CFG = s.CFG
  link : u.LINK = s.LINK ∨ s.LINK.OPENED = false ∧ kind = .ioError ∧ ∃ eff, u.LINK = { s.LINK with EFF := eff }
  uncounted : kind ≠ .integrityError → u.SENT = s.SENT ∧ u.RCVD = s.RCVD ∧ u.TRACE = s.TRACE
  mismatch : kind = .integrityError → ∃ tx rx : List Byte,
    info = .loopbackMismatch (diffsFrom 0 tx rx) ∧ u.SENT = s.SENT + tx.length ∧ u.RCVD = s.RCVD + tx.length ∧
      u.TRACE = s.TRACE ++ [.xfr s.A (some tx) (some rx)]

/-- An error of another kind than the comparison's that touched the oracles, the buffers and `HAZ` only. -/
theorem Erred.of_untouched {s : State} {kind : ErrKind} {info : ErrInfo} (hk : kind ≠ .integrityError) (e : Environment)
    (haz : Bool) (tx rx : Option (List Byte)) :
    Erred s kind info { s with ENV := e, HAZ := haz, TXBUF := tx, RXBUF := rx } where
  kept := ⟨rfl, rfl, rfl, rfl, rfl⟩
  frame := ⟨rfl, rfl, rfl, rfl, rfl, rfl, rfl, rfl, rfl⟩
  link := .inl rfl
  uncounted _ := ⟨rfl, rfl, rfl⟩
  mismatch h := absurd h hk

/-- An exchange that erred, after a breach was noted. -/
theorem erred_exchange {s u : State} {b : Bool} {tx : List Byte} {kind : ErrKind} {info : ErrInfo}
    (h : exchange tx (s.noteBreach b) = .error kind info u) : Erred s kind info u := by
  rcases ht : (s.noteBreach b).ENV.transfer with ⟨a, e⟩
  cases a with
  | short => rw [exchange_short ht] at h; cases h; exact .of_untouched (by decide) e _ none none
  | deviceError => rw [exchange_deviceError ht] at h; cases h; exact .of_untouched (by decide) e _ none none
  | done =>
    rw [exchange_done ht] at h
    rcases verifyLoop_cases (some tx) ((s.noteBreach b).received tx e) ((s.noteBreach b).received tx e)
        ((s.noteBreach b).afterTransfer tx e) with
      ⟨-, h'⟩ | ⟨-, -, -, -, h'⟩ | ⟨hl, -, -, h'⟩ <;> rw [h'] at h <;> cases h
    have hp : (s.noteBreach b).present tx = (some tx, true) := present_loopback hl tx
    exact
      { kept := ⟨rfl, rfl, rfl, rfl, rfl⟩
        frame := ⟨rfl, rfl, rfl, rfl, rfl, rfl, rfl, rfl, rfl⟩
        link := .inl rfl
        uncounted := fun h => absurd rfl h
        mismatch := fun _ => ⟨tx, (e.receive tx.length).1, by simp [State.received, hp], rfl, rfl, by
          simp [State.afterTransfer, hp]⟩ }

theorem andThen_eq_error {α β : Type} {r : Result α} {f : α → State → Result β} {k : ErrKind} {i : ErrInfo} {u : State}
    (h : r.andThen f = .error k i u) : r = .error k i u ∨ ∃ v t, r = .ok v t ∧ f v t = .error k i u := by
  cases r with
  | ok v t => exact .inr ⟨v, t, rfl, h⟩
  | error => exact .inl (by cases h; rfl)

theorem erred_xcmd {s u : State} {k : Cmd} {kind : ErrKind} {info : ErrInfo}
    (h : xcmdEffect k s = .error kind info u) : Erred s kind info u := by
  rcases andThen_eq_error h with h | ⟨v, t, -, h⟩
  · rcases andThen_eq_error h with h | ⟨v, t, -, h⟩
    · exact erred_exchange h
    · cases h
  · cases h

theorem erred_xfetch {s u : State} {kind : ErrKind} {info : ErrInfo} (h : xfetchEffect s = .error kind info u) :
    Erred s kind info u := by
  rcases andThen_eq_error h with h | ⟨v, t, -, h⟩
  · exact erred_exchange h
  · cases h

/-- A returned error came from the effect. -/
theorem effect_error_of_ret {α : Type} {cs : List (Bool × Refusal)} {r : Result α} {ret : α → Returned} {t : State}
    {kind : ErrKind} {info : ErrInfo} (h : guarded cs (r.settle ret) = .next t) (hfine : ∀ v, (ret v).fine)
    (hret : t.RET = .error kind info) : ∃ u, r = .error kind info u ∧ t = u.takeError kind info := by
  obtain ⟨-, rfl⟩ := guarded_eq_next.mp h
  cases r with
  | ok v u => exact absurd hret (hfine v kind info)
  | error k i u =>
    have hret' : (u.takeError k i).RET = .error k i := by
      rcases takeError_cases u k i with ⟨-, e⟩ | ⟨-, e⟩ <;> rw [e]
    cases hret'.symm.trans hret
    exact ⟨u, rfl, rfl⟩

theorem takeError_RET (s : State) (k : ErrKind) (i : ErrInfo) : (s.takeError k i).RET = .error k i := by
  rcases takeError_cases s k i with ⟨-, e⟩ | ⟨-, e⟩ <;> rw [e]

/-- Every operation in the ROM that returns an error has erred and taken it. -/
theorem erred_of_rom {i : Instr} (hi : i ∈ romInstrs) {s t : State} {kind : ErrKind} {info : ErrInfo}
    (h : exec i s = .next t) (hret : t.RET = .error kind info) :
    ∃ u, Erred s kind info u ∧ t = u.takeError kind info := by
  have command : ∀ k, exec (.xcmd k) s = .next t → ∃ u, Erred s kind info u ∧ t = u.takeError kind info := by
    intro k h
    obtain ⟨u, hr, rfl⟩ := effect_error_of_ret h (fun _ => fine_ok) hret
    exact ⟨u, erred_xcmd hr, rfl⟩
  simp only [romInstrs, List.mem_cons, List.not_mem_nil, or_false] at hi
  rcases hi with rfl | rfl | rfl | rfl | rfl | rfl | rfl | rfl | rfl | rfl | rfl | rfl | rfl | rfl
  · obtain ⟨ho, e, ⟨m, v, b, rfl⟩ | ⟨i, rfl⟩⟩ := exec_openLink h
    · cases hret
    · cases (takeError_RET _ _ _).symm.trans hret
      have untouched : Erred s .ioError info { s with ENV := e } :=
        .of_untouched (by decide) e s.HAZ s.TXBUF s.RXBUF
      exact ⟨State.forgetEff { s with ENV := e }, { untouched with link := .inr ⟨ho, rfl, _, rfl⟩ }, rfl⟩
  · obtain ⟨e, rfl | rfl⟩ := exec_ginit h
    · cases hret
    · cases (takeError_RET _ _ _).symm.trans hret
      exact ⟨_, .of_untouched (by decide) e s.HAZ s.TXBUF s.RXBUF, rfl⟩
  · obtain ⟨u, hr, -⟩ := effect_error_of_ret (r := deselEffect s) h (fun _ => fine_ok) hret
    cases hr
  · obtain ⟨u, hr, rfl⟩ := effect_error_of_ret (r := selEffect s.CH s) h (fun _ => fine_ok) hret
    unfold selEffect at hr
    split at hr <;> cases hr
    exact ⟨_, .of_untouched (by decide) s.ENV s.HAZ s.TXBUF s.RXBUF, rfl⟩
  · exact command _ h
  · exact command _ h
  · exact command _ h
  · exact command _ h
  · obtain ⟨u, hr, rfl⟩ := effect_error_of_ret h fine_count hret
    exact ⟨u, erred_xfetch hr, rfl⟩
  · obtain ⟨u, hr, -⟩ := effect_error_of_ret h (fun _ => fine_ok) hret
    unfold convEffect at hr
    split at hr <;> cases hr
  · rw [exec_arm h] at hret; cases hret
  · rw [exec_emit h] at hret; cases hret
  · rcases exec_rate h with e | ⟨_, _, e⟩ <;> rw [e] at hret <;> cases hret
  · obtain ⟨n, -, e⟩ := exec_dec h
    rw [e] at hret; cases hret

/-- A step of the sequencer that returned an error is an operation that erred, or the check of the configuration. -/
theorem erred_of_step {s t : State} {kind : ErrKind} {info : ErrInfo} (hreqs : s.REQS = []) (h : step s = .next t)
    (hret : t.RET = .error kind info) : ∃ u, Erred s kind info u ∧ t = u.takeError kind info := by
  obtain ⟨-, ⟨-, rfl⟩ | ⟨w, i, u, -, hw, hdecode, hexec, rfl⟩⟩ := step_sequencer hreqs h
  case inl =>
    cases (takeError_RET _ _ _).symm.trans hret
    exact ⟨s, .of_untouched (by decide) s.ENV s.HAZ s.TXBUF s.RXBUF, rfl⟩
  case inr =>
    obtain ⟨j, hj, hdecode'⟩ := decode_romWord hw
    cases hdecode.symm.trans hdecode'
    have hret' : u.RET = .error kind info := by
      split at hret <;> exact hret
    obtain ⟨v, hv, rfl⟩ := erred_of_rom hj hexec hret'
    have hhalted : (v.takeError kind info).PHASE = .halted := by
      rw [(errorHaltsTheSequencerOnly v _ _).1 (hv.kept.2.2.2.2.trans hreqs)]
    exact ⟨v, hv, if_pos hhalted⟩

/-- Settles O44: what the operation did before it erred, and then the halt. -/
theorem sequencerErrorHaltsInPlace : Obligations.SequencerErrorHaltsInPlace := by
  unfold Obligations.SequencerErrorHaltsInPlace
  intro s t kind info hreqs h hret
  obtain ⟨u, hu, rfl⟩ := erred_of_step hreqs h hret
  obtain ⟨hch, hstep, hA, hout, hreqs'⟩ := hu.kept
  obtain ⟨hdir, hcnt, hres, henc, hss, hsr, hlast, hcyc, hcfg⟩ := hu.frame
  rw [(errorHaltsTheSequencerOnly u _ _).1 (hreqs'.trans hreqs)]
  exact ⟨⟨rfl, hch, hstep, hA, rfl, rfl, by rw [hout]⟩,
    ⟨hdir, hcnt, hres, henc, hss, hsr, hlast, hcyc, hcfg, hreqs'.trans hreqs⟩, hu.link, hu.uncounted, hu.mismatch⟩

end Sys2Proof.Machine
end

section
/-! PROOFS. The sequencer's moves: at each position of the ROM, what its operation needs and what holds after it
(43_polling_loop.md R178 to R190, 70_reset_and_hazards.md R259). -/

namespace Sys2Proof.Machine

/-! What a move is. -/

/-- The instruction of the micro-word at the sequencer's position. -/
def State.issues (s : State) (i : Instr) : Prop :=
  ∃ w, romWord s.CFG.N s.PHASE s.CH s.STEP = some w ∧ decode [w] = .ok (i, [])

/-- The instruction at the position has its prerequisites on an admitted link, breaks no duty, and leaves what holds at
the next position, unless it halts the machine. -/
structure State.Moves (s : State) (i : Instr) : Prop where
  issues : s.issues i
  ready : (s.LINK.OPENED = true → s.admitted = true) → prerequisites i s
  keeps : ∀ u, exec i s = .next u → u.HAZ = false ∧ (u.PHASE ≠ .halted → u.advance.positionHolds)

@[simp] theorem takeError_HAZ (s : State) (k : ErrKind) (i : ErrInfo) : (s.takeError k i).HAZ = s.HAZ := by
  rcases takeError_cases s k i with ⟨-, e⟩ | ⟨-, e⟩ <;> rw [e]

theorem takeError_PHASE {s : State} (h : s.REQS = []) (k : ErrKind) (i : ErrInfo) :
    (s.takeError k i).PHASE = .halted := by
  rw [(errorHaltsTheSequencerOnly s k i).1 h]

/-! The operations, each with what must hold before it and after it. -/

theorem moves_desel {s : State} (hz : s.HAZ = false) (hup : s.broughtUp) (hi : s.issues .desel)
    (hnext : ({ s.deselect with RET := .ok } : State).advance.positionHolds) : s.Moves .desel where
  issues := hi
  ready _ := hup.2.2
  keeps u h := by
    obtain ⟨-, rfl⟩ := guarded_eq_next.mp h
    exact ⟨hz, fun _ => hnext⟩

theorem moves_selc {s : State} {c : Chan} (hz : s.HAZ = false) (hup : s.broughtUp) (hi : s.issues .selc)
    (hc : Chan.ofId s.CH = some c) (hfree : s.otherSelected c = false)
    (hnext : ({ s.select c with RET := .ok } : State).advance.positionHolds) : s.Moves .selc where
  issues := hi
  ready _ := by
    have hrange := Chan.ofId_isSome.mp (Option.isSome_iff_exists.mpr ⟨c, hc⟩)
    exact ⟨by omega, fun _ => hup.2.2⟩
  keeps u h := by
    obtain ⟨-, rfl⟩ := guarded_eq_next.mp h
    rw [selEffect, hc]
    exact ⟨by simp [hz, hfree], fun _ => hnext⟩

/-- The state after a command that was sent, before its programming is noted. -/
def State.commanded (s : State) (k : Cmd) (rx : List Byte) (e : Environment) (out : List OutEvent) : State :=
  { s with
    TXBUF := none, RXBUF := none, SENT := s.SENT + 1, RCVD := s.RCVD + 1,
    TRACE := s.TRACE ++ [.xfr s.A (some [s.CFG.cmdByte k]) (some rx)], OUT := s.OUT ++ out, ENV := e }

@[simp] theorem noteProgrammed_HAZ (s : State) : s.noteProgrammed.HAZ = s.HAZ :=
  (within_noteProgrammed ⟨false, false, false, false, true, false, false⟩ rfl s).duty rfl

/-- Under the sequencer an error halts the machine, with `HAZ` as the operation left it. -/
theorem keeps_takeError {t : State} (hz : t.HAZ = false) (hreqs : t.REQS = []) (k : ErrKind) (i : ErrInfo) (P : Prop) :
    (t.takeError k i).HAZ = false ∧ ((t.takeError k i).PHASE ≠ .halted → P) :=
  ⟨by rw [takeError_HAZ, hz], fun hrun => absurd (takeError_PHASE hreqs k i) hrun⟩

/-- No effect touches what is pending. -/
theorem reqs_of_error {α : Type} {k : Kinds} {s t : State} {r : Result α} {kind : ErrKind} {info : ErrInfo}
    (hwithin : r.Leaves (Within k s)) (hr : r = .error kind info t) : t.REQS = s.REQS := by
  rw [hr] at hwithin
  exact hwithin.constant.2.1

theorem moves_xcmd {s : State} {k : Cmd} (hz : s.HAZ = false) (hreqs : s.REQS = []) (hup : s.broughtUp)
    (hi : s.issues (.xcmd k)) (hduty : s.commandBreach k = false)
    (hnext : ∀ rx e out, resultsIn out = 0 →
      ({ (if k = .setSec then (s.commanded k rx e out).noteProgrammed else s.commanded k rx e out) with
        RET := .ok } : State).advance.positionHolds) : s.Moves (.xcmd k) where
  issues := hi
  ready hadm := ⟨hup.2.1, hadm hup.2.1⟩
  keeps u h := by
    obtain ⟨hpassed, rfl⟩ := guarded_eq_next.mp h
    have hadm : s.admitted = true := notAdmitted_passed.mp (hpassed s.notAdmitted (by simp))
    rcases xcmd_cases hadm hduty with ⟨kind, info, t, ht, hhaz⟩ | ⟨rx, e, out, hout, ht⟩
    · have hreqs' := reqs_of_error
        (within_xcmdEffect (Kinds.ofInstr (.xcmd k)) rfl rfl rfl k (by rintro rfl; rfl) s) ht
      rw [ht, Result.error_settle]
      exact keeps_takeError (hhaz.trans hz) (hreqs'.trans hreqs) _ _ _
    · rw [ht, Result.ok_settle]
      exact ⟨by split <;> simp [hz], fun _ => hnext rx e out hout⟩

theorem moves_xfetch {s : State} (hz : s.HAZ = false) (hreqs : s.REQS = []) (hup : s.broughtUp)
    (hi : s.issues .xfetch) (hduty : s.fetchBreach = false)
    (hnext : ∀ rx e out n, resultsIn out = 0 →
      ({ s with
        TXBUF := none, RXBUF := none, CNT := some n, SENT := s.SENT + 4, RCVD := s.RCVD + 4,
        TRACE := s.TRACE ++ [.xfr s.A (some s.CFG.fetchFrame) (some rx)], OUT := s.OUT ++ out, ENV := e,
        RET := .count n } : State).advance.positionHolds) : s.Moves .xfetch where
  issues := hi
  ready hadm := ⟨hup.2.1, hadm hup.2.1⟩
  keeps u h := by
    obtain ⟨hpassed, rfl⟩ := guarded_eq_next.mp h
    have hadm : s.admitted = true := notAdmitted_passed.mp (hpassed s.notAdmitted (by simp))
    rcases xfetch_cases hadm hduty with ⟨kind, info, t, ht, hhaz⟩ | ⟨rx, e, out, hout, ht⟩
    · have hreqs' := reqs_of_error (within_xfetchEffect (Kinds.ofInstr .xfetch) rfl rfl rfl rfl s) ht
      rw [ht, Result.error_settle]
      exact keeps_takeError (hhaz.trans hz) (hreqs'.trans hreqs) _ _ _
    · rw [ht, Result.ok_settle]
      exact ⟨hz, fun _ => hnext rx e out _ hout⟩

theorem moves_conv {s : State} {c : Chan} (hz : s.HAZ = false) (hi : s.issues (.convAngle 0))
    (hc : Chan.ofId s.CH = some c) {n : Count32} (hcnt : s.CNT = some n)
    (hnext : ({ s with RES := s.RES.set c (some (angleOf s.CFG n)), CNT := none, RET := .ok } :
      State).advance.positionHolds) : s.Moves (.convAngle 0) where
  issues := hi
  ready _ := ⟨Chan.ofId_isSome.mp (Option.isSome_iff_exists.mpr ⟨c, hc⟩), by simp [hcnt]⟩
  keeps u h := by
    obtain ⟨-, rfl⟩ := guarded_eq_next.mp h
    have hslot : s.slot 0 = s.CH := rfl
    simp only [hslot, convEffect, hc, hcnt]
    exact ⟨hz, fun _ => hnext⟩

end Sys2Proof.Machine
end

section
/-! PROOFS. The moves of the programming phase (42_encoder_commands.md R156, 43_polling_loop.md R179). -/

namespace Sys2Proof.Machine

/-- What holds at every position of the phase. -/
structure State.InProgramming (s : State) : Prop where
  phase : s.PHASE = .programming
  up : s.broughtUp
  noSample : s.CNT = none
  noResult : resultsIn s.OUT = 0
  served : 1 ≤ s.CH ∧ s.CH ≤ s.CFG.N

namespace State.InProgramming

variable {s : State} (h : s.InProgramming)
include h

theorem issues {k : Nat} (hk : s.STEP = k) {w : Byte} {i : Instr} (hw : programmingWords[k]? = some w)
    (hdecode : decode [w] = .ok (i, [])) : s.issues i :=
  ⟨w, by rw [h.phase, romWord_programming h.served.1 h.served.2, hk, hw], hdecode⟩

theorem deselect : ({ s.deselect with RET := .ok } : State).InProgramming :=
  ⟨h.phase, h.up, h.noSample, h.noResult, h.served⟩

theorem select (c : Chan) : ({ s.select c with RET := .ok } : State).InProgramming :=
  ⟨h.phase, h.up, h.noSample, h.noResult, h.served⟩

theorem commanded (k : Cmd) (rx : List Byte) (e : Environment) {out : List OutEvent} (hout : resultsIn out = 0)
    (enc : Six EncState) : ({ s.commanded k rx e out with ENC := enc, RET := .ok } : State).InProgramming :=
  ⟨h.phase, h.up, h.noSample, by simp [State.commanded, resultsIn_append, h.noResult, hout], h.served⟩

/-- The next position of the channel. -/
theorem next {k : Nat} (hk : s.STEP = k) (hle : k ≤ 10) (hat : s.programmingAt s.CH (k + 1)) :
    s.advance.positionHolds := by
  obtain ⟨hphase, hch, hstep⟩ := advance_position (u := s) (p := .programming) (c := s.CH) (st := k + 1)
    (by rw [h.phase, hk, nextPosition_programming _ _ _ hle])
  simp only [State.positionHolds, hphase, hch, hstep]
  exact ⟨h.up, h.noSample, h.noResult, h.served.1, h.served.2, hat⟩

/-- The position after the last one of the channel: the next channel, or `Ready`. -/
theorem next_channel (hk : s.STEP = 11) (hconfigured : s.configuredUpTo s.CH) (hsent : s.SENT = 3 * s.CH)
    (hidle : s.atIdle) : s.advance.positionHolds := by
  by_cases hlast : s.CH < s.CFG.N
  · obtain ⟨hphase, hch, hstep⟩ := advance_position (u := s) (p := .programming) (c := s.CH + 1) (st := 0)
      (by rw [h.phase, hk, nextPosition_programming_last, if_pos hlast])
    simp only [State.positionHolds, hphase, hch, hstep]
    exact ⟨h.up, h.noSample, h.noResult, by omega, hlast, hconfigured, hsent⟩
  · obtain ⟨hphase, hch, hstep⟩ := advance_position (u := s) (p := .ready) (c := 0) (st := 0)
      (by rw [h.phase, hk, nextPosition_programming_last, if_neg hlast])
    obtain hN : s.CH = s.CFG.N := Nat.le_antisymm h.served.2 (Nat.not_lt.mp hlast)
    simp only [State.positionHolds, hphase, hch, hstep]
    exact ⟨h.up, h.noSample, h.noResult, trivial, trivial, hN ▸ hconfigured, hidle, hN ▸ hsent⟩

end State.InProgramming

theorem sentTo_nil (s : State) (c : Nat) : s.sentTo c [] := fun _ _ => rfl

/-- A command adds what it sent at its channel. -/
theorem sentTo_commanded {s : State} {c : Chan} {k : Cmd} {txs : List (List Byte)} (hc : Chan.ofId s.CH = some c)
    (hA : s.A = s.CFG.pattern c) (h : s.sentTo s.CH txs) (rx : List Byte) (e : Environment) (out : List OutEvent) :
    (s.commanded k rx e out).sentTo s.CH ([s.CFG.cmdByte k] :: txs) := by
  intro d hd
  obtain rfl : c = d := Option.some.inj (hc.symm.trans hd)
  have hlatest := h c hc
  simp only [State.commanded, hA, sentAt_xfr, List.reverse_append, List.reverse_singleton, List.singleton_append,
    List.length_cons, List.take_succ_cons, hlatest, List.map_cons]

/-- The latest command sent at the channel. -/
theorem lastSent_of_sentTo {s : State} {c : Chan} {tx : List Byte} {txs : List (List Byte)}
    (hc : Chan.ofId s.CH = some c) (h : s.sentTo s.CH (tx :: txs)) :
    (sentAt (s.CFG.pattern c) s.TRACE).getLast? = some (some tx) :=
  getLast_of_reverse_take (h c hc)

/-- The third command of the sequence configures its channel (42_encoder_commands.md R158). -/
theorem noteProgrammed_commanded {s : State} {c : Chan} (hw : s.CFG.wf = true) (hc : Chan.ofId s.CH = some c)
    (hA : s.A = s.CFG.pattern c) (h : s.sentTo s.CH [[s.CFG.CMD_SET_QUAD], [s.CFG.CMD_SEL_CTRL]]) (rx : List Byte)
    (e : Environment) (out : List OutEvent) :
    (s.commanded .setSec rx e out).noteProgrammed =
      { s.commanded .setSec rx e out with ENC := s.ENC.set c .configured } := by
  refine noteProgrammed_eq (trace := s.TRACE) (rx := some rx) hw rfl fun d => ?_
  have hlatest : (sentAt s.A s.TRACE).reverse.take 2 = [some [s.CFG.CMD_SET_QUAD], some [s.CFG.CMD_SEL_CTRL]] :=
    hA ▸ h c hc
  by_cases hd : d = c
  · subst hd
    exact ⟨fun _ => .inr ⟨hA, hlatest⟩, fun _ => Six.get_set_same _ _ _⟩
  · rw [Six.get_set_other _ _ hd]
    exact ⟨.inl, fun h => h.elim id fun ⟨hA', _⟩ => absurd (Cfg.pattern_inj hw (hA'.symm.trans hA)) hd⟩

theorem configuredUpTo_set {s t : State} {c : Chan} (hc : Chan.ofId s.CH = some c)
    (h : s.configuredUpTo (s.CH - 1)) (ht : t.ENC = s.ENC.set c .configured) : t.configuredUpTo s.CH := by
  intro d hd
  rw [ht]
  by_cases hdc : d = c
  · rw [hdc, Six.get_set_same]
  · rw [Six.get_set_other _ _ hdc]
    have hne : d.id ≠ s.CH := fun e => hdc (Option.some.inj ((Chan.ofId_eq_some.mpr e.symm).symm.trans hc))
    exact h d (by have := (Chan.id_range d).1; omega)

/-- Each position of the phase: drive idle, select the channel, send its command, three times over. -/
theorem moves_programming {s : State} (hs : SequencerInv s) (h : s.InProgramming) (hat : s.programmingAt s.CH s.STEP) :
    ∃ i, s.Moves i := by
  have hz := hs.noBreach
  have hw := h.up.1
  obtain ⟨c, hc, -⟩ := exists_served hw h.served.1 h.served.2
  have hchannel : s.atChannel s.CH → s.A = s.CFG.pattern c := fun ⟨d, hd, hA⟩ =>
    Option.some.inj (hd.symm.trans hc) ▸ hA
  match hk : s.STEP, hat with
  | 0, hat =>
    obtain ⟨hconf, hsent⟩ := hat
    exact ⟨_, moves_desel hz h.up (h.issues hk rfl rfl) (h.deselect.next hk (by decide) ⟨hconf, hsent, rfl⟩)⟩
  | 1, hat =>
    obtain ⟨hconf, hsent, hidle⟩ := hat
    exact ⟨_, moves_selc hz h.up (h.issues hk rfl rfl) hc (otherSelected_idle hw hidle)
      ((h.select c).next hk (by decide) ⟨hconf, hsent, c, hc, rfl⟩)⟩
  | 2, hat =>
    obtain ⟨hconf, hsent, hA⟩ := hat
    exact ⟨_, moves_selc hz h.up (h.issues hk rfl rfl) hc (otherSelected_eq_false_of_selected hw (hchannel hA))
      ((h.select c).next hk (by decide) ⟨hconf, hsent, c, hc, rfl⟩)⟩
  | 3, hat =>
    obtain ⟨hconf, hsent, hA⟩ := hat
    refine ⟨_, moves_xcmd (k := .selCtrl) hz hs.alone h.up (h.issues hk rfl rfl)
      (commandBreach_eq_false hw (hchannel hA) trivial) fun rx e out hout => ?_⟩
    exact (h.commanded .selCtrl rx e hout s.ENC).next hk (by decide)
      ⟨hconf, congrArg (· + 1) hsent, hA, sentTo_commanded hc (hchannel hA) (sentTo_nil s _) rx e out⟩
  | 4, hat | 7, hat =>
    obtain ⟨hconf, hsent, -, hlatest⟩ := hat
    exact ⟨_, moves_desel hz h.up (h.issues hk rfl rfl)
      (h.deselect.next hk (by decide) ⟨hconf, hsent, rfl, sentTo_drv hlatest rfl rfl⟩)⟩
  | 5, hat | 8, hat =>
    obtain ⟨hconf, hsent, hidle, hlatest⟩ := hat
    exact ⟨_, moves_selc hz h.up (h.issues hk rfl rfl) hc (otherSelected_idle hw hidle)
      ((h.select c).next hk (by decide) ⟨hconf, hsent, ⟨c, hc, rfl⟩, sentTo_drv hlatest rfl rfl⟩)⟩
  | 6, hat =>
    obtain ⟨hconf, hsent, hA, hlatest⟩ := hat
    refine ⟨_, moves_xcmd (k := .setQuad) hz hs.alone h.up (h.issues hk rfl rfl)
      (commandBreach_eq_false hw (hchannel hA) (lastSent_of_sentTo hc hlatest)) fun rx e out hout => ?_⟩
    exact (h.commanded .setQuad rx e hout s.ENC).next hk (by decide)
      ⟨hconf, congrArg (· + 1) hsent, hA, sentTo_commanded hc (hchannel hA) hlatest rx e out⟩
  | 9, hat =>
    obtain ⟨hconf, hsent, hA, hlatest⟩ := hat
    refine ⟨_, moves_xcmd (k := .setSec) hz hs.alone h.up (h.issues hk rfl rfl)
      (commandBreach_eq_false hw (hchannel hA) (lastSent_of_sentTo hc hlatest)) fun rx e out hout => ?_⟩
    rw [if_pos rfl, noteProgrammed_commanded hw hc (hchannel hA) hlatest]
    have hcount : s.SENT + 1 = 3 * s.CH := by have := h.served.1; omega
    exact (h.commanded .setSec rx e hout _).next hk (by decide) ⟨configuredUpTo_set (s := s) hc hconf rfl, hcount, hA⟩
  | 10, hat =>
    obtain ⟨hconf, hsent, -⟩ := hat
    exact ⟨_, moves_desel hz h.up (h.issues hk rfl rfl) (h.deselect.next hk (by decide) ⟨hconf, hsent, rfl⟩)⟩
  | 11, hat =>
    obtain ⟨hconf, hsent, -⟩ := hat
    exact ⟨_, moves_desel hz h.up (h.issues hk rfl rfl) (h.deselect.next_channel hk hconf hsent rfl)⟩
  | _ + 12, hat => exact hat.elim

end Sys2Proof.Machine
end

section
/-! PROOFS. The moves of the polling phase (43_polling_loop.md R182 to R189), and the setup before the programming. -/

namespace Sys2Proof.Machine

/-- What holds at every position of the phase. -/
structure State.InPolling (s : State) : Prop where
  phase : s.PHASE = .polling
  up : s.broughtUp
  configured : s.configuredUpTo s.CFG.N
  stamped : s.LAST_T ≠ none
  counting : ∃ n, s.CYC = some n ∧ 1 ≤ n ∧ n ≤ s.CFG.cycles

/-- The facts of a position of the polling phase, once its place is known. -/
theorem positionHolds_polling {s : State} (hup : s.broughtUp) (hconf : s.configuredUpTo s.CFG.N)
    (hstamp : s.LAST_T ≠ none) (hcyc : ∃ n, s.CYC = some n ∧ 1 ≤ n ∧ n ≤ s.CFG.cycles) {c k : Nat}
    (hpos : nextPosition s.CFG.N s.CYC s.PHASE s.CH s.STEP = (.polling, c, k)) (hat : s.pollingAt c k) :
    s.advance.positionHolds := by
  obtain ⟨hphase, hch, hstep⟩ := advance_position hpos
  simp only [State.positionHolds, hphase, hch, hstep]
  exact ⟨hup, hconf, hstamp, hcyc, hat⟩

namespace State.InPolling

variable {s : State} (h : s.InPolling)
include h

theorem issues {c k : Nat} (hch : s.CH = c + 1) (hc : c + 1 ≤ s.CFG.N) (hk : s.STEP = k) {w : Byte} {i : Instr}
    (hw : pollingWords[k]? = some w) (hdecode : decode [w] = .ok (i, [])) : s.issues i :=
  ⟨w, by rw [h.phase, hch, romWord_polling hc, hk, hw], hdecode⟩

theorem issues_end (hch : s.CH = 0) {k : Nat} (hk : s.STEP = k) {w : Byte} {i : Instr}
    (hw : romWord s.CFG.N .polling 0 k = some w) (hdecode : decode [w] = .ok (i, [])) : s.issues i :=
  ⟨w, by rw [h.phase, hch, hk, hw], hdecode⟩

/-- The next position of the channel. -/
theorem next {c k : Nat} (hch : s.CH = c + 1) (hk : s.STEP = k) (hle : k ≤ 3) (hat : s.pollingAt (c + 1) (k + 1)) :
    s.advance.positionHolds :=
  positionHolds_polling h.up h.configured h.stamped h.counting
    (by rw [h.phase, hch, hk, nextPosition_polling _ _ (Nat.le_add_left 1 c) hle]) hat

end State.InPolling

/-- Events that are no results leave the count of the results. -/
theorem resultsIn_append_quiet {before out : List OutEvent} (hout : resultsIn out = 0) :
    resultsIn (before ++ out) = resultsIn before := by
  rw [resultsIn_append, hout, Nat.add_zero]

theorem readJustSent_commanded (s : State) (rx : List Byte) (e : Environment) (out : List OutEvent) :
    (s.commanded .readPos rx e out).readJustSent = true := by
  simp [State.readJustSent, State.commanded, Cfg.cmdByte]

theorem storedUpTo_set {s t : State} {c : Nat} {ch : Chan} {v : Angle} (hch : Chan.ofId ((c + 1 : Nat) : Int) = some ch)
    (h : s.storedUpTo c) (ht : t.RES = s.RES.set ch (some v)) : t.storedUpTo (c + 1) := by
  intro d hd
  rw [ht]
  by_cases hdc : d = ch
  · rw [hdc, Six.get_set_same]
    nofun
  · rw [Six.get_set_other _ _ hdc]
    have hne : d.id ≠ ((c + 1 : Nat) : Int) := fun e =>
      hdc (Option.some.inj ((Chan.ofId_eq_some.mpr e.symm).symm.trans hch))
    exact h d (by push_cast at hd hne; omega)

/-- Each position of one channel's turn: select, read, fetch, convert, drive idle. -/
theorem moves_polling_channel {s : State} (hs : SequencerInv s) (h : s.InPolling) {c : Nat} (hch : s.CH = c + 1)
    (hat : s.pollingAt (c + 1) s.STEP) : ∃ i, s.Moves i := by
  have hz := hs.noBreach
  have hw := h.up.1
  obtain ⟨hN, hresults, hat⟩ := hat
  obtain ⟨ch, hid, hchid⟩ := exists_served hw (Nat.le_add_left 1 c) hN
  have hid' : Chan.ofId s.CH = some ch := hch ▸ hid
  have hchannel : s.atChannel (c + 1) → s.A = s.CFG.pattern ch := fun ⟨d, hd, hA⟩ =>
    Option.some.inj (hd.symm.trans hid) ▸ hA
  match hk : s.STEP, hat with
  | 0, hat =>
    obtain ⟨hcnt, hidle, hsent, hstored⟩ := hat
    have hin : ({ s.select ch with RET := .ok } : State).InPolling :=
      ⟨h.phase, h.up, h.configured, h.stamped, h.counting⟩
    exact ⟨_, moves_selc hz h.up (h.issues hch hN hk rfl rfl) hid' (otherSelected_idle hw hidle)
      (hin.next hch hk (by decide) ⟨hN, hresults, hcnt, ⟨ch, hid, rfl⟩, hsent, hstored⟩)⟩
  | 1, hat =>
    obtain ⟨hcnt, hA, hsent, hstored⟩ := hat
    have hready : s.ENC.get ch = .configured := h.configured ch (by rw [hchid]; exact_mod_cast hN)
    refine ⟨_, moves_xcmd (k := .readPos) hz hs.alone h.up (h.issues hch hN hk rfl rfl)
      (commandBreach_eq_false hw (hchannel hA) hready) fun rx e out hout => ?_⟩
    have hin : ({ s.commanded .readPos rx e out with RET := .ok } : State).InPolling :=
      ⟨h.phase, h.up, h.configured, h.stamped, h.counting⟩
    exact hin.next hch hk (by decide) ⟨hN, (resultsIn_append_quiet hout).trans hresults, hcnt, hA,
      congrArg (· + 1) hsent, hstored, readJustSent_commanded s rx e out⟩
  | 2, hat =>
    obtain ⟨hcnt, hA, hsent, hstored, hread⟩ := hat
    refine ⟨_, moves_xfetch hz hs.alone h.up (h.issues hch hN hk rfl rfl) (fetchBreach_eq_false (hchannel hA) hread)
      fun rx e out n hout => ?_⟩
    refine State.InPolling.next ⟨h.phase, h.up, h.configured, h.stamped, h.counting⟩ hch hk (by decide)
      ⟨hN, (resultsIn_append_quiet hout).trans hresults, nofun, hA, ?_, hstored⟩
    change s.SENT + 4 = _
    rw [hsent]
    rfl
  | 3, hat =>
    obtain ⟨hcnt, hA, hsent, hstored⟩ := hat
    obtain ⟨n, hn⟩ := Option.ne_none_iff_exists'.mp hcnt
    refine ⟨_, moves_conv hz (h.issues hch hN hk rfl rfl) hid' hn ?_⟩
    exact State.InPolling.next ⟨h.phase, h.up, h.configured, h.stamped, h.counting⟩ hch hk (by decide)
      ⟨hN, hresults, rfl, hA, hsent, storedUpTo_set (s := s) hid hstored rfl⟩
  | 4, hat =>
    obtain ⟨hcnt, -, hsent, hstored⟩ := hat
    refine ⟨_, moves_desel hz h.up (h.issues hch hN hk rfl rfl) ?_⟩
    by_cases hlast : c + 1 < s.CFG.N
    · refine positionHolds_polling (c := c + 2) (k := 0) h.up h.configured h.stamped h.counting ?_
        ⟨hlast, hresults, hcnt, rfl, hsent, hstored⟩
      change nextPosition s.CFG.N s.CYC s.PHASE s.CH s.STEP = _
      rw [h.phase, hch, hk, nextPosition_polling_last _ _ (Nat.le_add_left 1 c), if_pos hlast]
    · obtain hN' : c + 1 = s.CFG.N := by omega
      refine positionHolds_polling (c := 0) (k := 5) h.up h.configured h.stamped h.counting ?_
        ⟨hcnt, rfl, hN' ▸ hsent, hN' ▸ hstored, hresults⟩
      change nextPosition s.CFG.N s.CYC s.PHASE s.CH s.STEP = _
      rw [h.phase, hch, hk, nextPosition_polling_last _ _ (Nat.le_add_left 1 c), if_neg hlast]
  | _ + 5, hat => exact hat.elim

/-- The results are set before they are emitted. -/
theorem moves_emit {s : State} (hs : SequencerInv s) (h : s.InPolling) (hch : s.CH = 0) (hk : s.STEP = 5)
    (hat : s.pollingAt 0 5) : s.Moves .emit where
  issues := h.issues_end hch hk rfl rfl
  ready _ := by
    obtain ⟨-, -, -, hstored, -⟩ := hat
    exact fun c hc => hstored c (Cfg.mem_channels.mp hc)
  keeps u hu := by
    obtain ⟨hcnt, hidle, hsent, hstored, hresults⟩ := hat
    rw [exec_emit hu]
    refine ⟨hs.noBreach, fun _ => positionHolds_polling (c := 0) (k := 6) h.up h.configured h.stamped h.counting
      (by simp only [h.phase, hch, hk]; rfl) ⟨hcnt, hidle, hsent, ?_⟩⟩
    change resultsIn (s.OUT ++ _) = s.cyclesDone + 1
    rw [resultsIn_append, hresults]
    rfl

theorem moves_rate {s : State} (hs : SequencerInv s) (h : s.InPolling) (hch : s.CH = 0) (hk : s.STEP = 6)
    (hat : s.pollingAt 0 6) : s.Moves .rate where
  issues := h.issues_end hch hk rfl rfl
  ready _ := h.stamped
  keeps u hu := by
    obtain ⟨hcnt, hidle, hsent, hresults⟩ := hat
    have hpos : nextPosition s.CFG.N s.CYC s.PHASE s.CH s.STEP = (.polling, 0, 7) := by rw [h.phase, hch, hk]; rfl
    rcases exec_rate hu with rfl | ⟨tx, rx, rfl⟩
    · exact ⟨hs.noBreach, fun _ => positionHolds_polling h.up h.configured h.stamped h.counting hpos
        ⟨hcnt, hidle, hsent, hresults⟩⟩
    · exact ⟨hs.noBreach, fun _ => positionHolds_polling h.up h.configured nofun h.counting hpos
        ⟨hcnt, hidle, hsent, (resultsIn_append_quiet rfl).trans hresults⟩⟩

/-- A number of no served channel: nothing is stored up to it, nor configured. -/
theorem not_id_le_zero (d : Chan) : ¬ d.id ≤ ((0 : Nat) : Int) := by
  have := (Chan.id_range d).1
  push_cast
  omega

/-- The cycle counted down is accounted for, and the run goes on with channel 1 or is done. -/
theorem moves_dec {s : State} (hs : SequencerInv s) (h : s.InPolling) (hch : s.CH = 0) (hk : s.STEP = 7)
    (hat : s.pollingAt 0 7) : s.Moves .dec where
  issues := h.issues_end hch hk rfl rfl
  ready _ := by
    obtain ⟨m, hm, hm1, -⟩ := h.counting
    exact ⟨m - 1, by rw [hm, Nat.sub_add_cancel hm1]⟩
  keeps u hu := by
    obtain ⟨hcnt, hidle, hsent, hresults⟩ := hat
    obtain ⟨m, hm, hm1, hmK⟩ := h.counting
    obtain ⟨n, hn, rfl⟩ := exec_dec hu
    obtain rfl : n + 1 = m := Option.some.inj (hn.symm.trans hm)
    have hdone : s.cyclesDone + 1 = s.CFG.cycles - n := by
      simp only [State.cyclesDone, hm, Option.getD_some]
      omega
    have hcount : s.SENT = 3 * s.CFG.N + 5 * s.CFG.N * (s.CFG.cycles - n) := by
      rw [hsent, ← hdone, Nat.mul_succ, Nat.add_assoc]
    rw [hdone] at hresults
    have hpos : nextPosition s.CFG.N (some n) s.PHASE s.CH s.STEP =
        if n > 0 then (.polling, 1, 0) else (.done, 0, 0) := by
      rw [h.phase, hch, hk, nextPosition_polling_dec, Option.getD_some]
    refine ⟨hs.noBreach, fun _ => ?_⟩
    by_cases hmore : n > 0
    · rw [if_pos hmore] at hpos
      exact positionHolds_polling h.up h.configured h.stamped ⟨n, rfl, hmore, Nat.le_of_succ_le hmK⟩ hpos
        ⟨(wf_channelCount h.up.1).1, hresults, hcnt, hidle, hcount, fun d hd => absurd hd (not_id_le_zero d)⟩
    · obtain rfl : n = 0 := Nat.eq_zero_of_not_pos hmore
      rw [if_neg hmore] at hpos
      obtain ⟨hphase, hch', hstep⟩ := advance_position (u := { s with CYC := some 0, RET := .ok }) hpos
      simp only [State.positionHolds, hphase, hch', hstep]
      exact ⟨trivial, trivial, h.up.2.1, hcnt, h.configured, hidle, rfl, hcount, hresults⟩

/-- The three positions that end a cycle: emit, report, count down. -/
theorem moves_polling_end {s : State} (hs : SequencerInv s) (h : s.InPolling) (hch : s.CH = 0)
    (hat : s.pollingAt 0 s.STEP) : ∃ i, s.Moves i := by
  have hstep : s.STEP = 5 ∨ s.STEP = 6 ∨ s.STEP = 7 := by
    rcases State.position_of_pollingAt hat with ⟨h1, -⟩ | ⟨-, h5, h7⟩ <;> omega
  rcases hstep with hk | hk | hk <;> rw [hk] at hat
  · exact ⟨_, moves_emit hs h hch hk hat⟩
  · exact ⟨_, moves_rate hs h hch hk hat⟩
  · exact ⟨_, moves_dec hs h hch hk hat⟩

/-! The setup and the entry of the polling phase (43_polling_loop.md R178, R182). -/

theorem moves_open {s : State} (hs : SequencerInv s) (hphase : s.PHASE = .setup) (hch : s.CH = 0) (hk : s.STEP = 0)
    (hwf : s.CFG.wf = true) (htrace : s.TRACE = []) (hsent : s.SENT = 0) (hcnt : s.CNT = none)
    (hresults : resultsIn s.OUT = 0) (hclosed : s.LINK.OPENED = false) : s.Moves .openLink where
  issues := ⟨0x10, by rw [hphase, hch, hk]; rfl, rfl⟩
  ready _ := hclosed
  keeps u hu := by
    obtain ⟨-, e, ⟨m, v, b, rfl⟩ | ⟨i, rfl⟩⟩ := exec_openLink hu
    · obtain ⟨l, out, hl, hout, hshape⟩ := opened_shape { s with ENV := e } m v b
      rw [hshape]
      obtain ⟨hphase', hch', hstep'⟩ := advance_position
        (u := { s with ENV := e, LINK := l, OUT := s.OUT ++ out, RET := .ok }) (p := .setup) (c := 0) (st := 1)
        (by simp only [hphase, hch, hk]; rfl)
      refine ⟨hs.noBreach, fun _ => ?_⟩
      simp only [State.positionHolds, hphase', hch', hstep']
      exact ⟨trivial, htrace, hsent, hcnt, (resultsIn_append_quiet hout).trans hresults, .inr ⟨trivial, hwf, hl⟩⟩
    · exact keeps_takeError (t := State.forgetEff { s with ENV := e }) hs.noBreach hs.alone _ _ _

theorem moves_ginit {s : State} (hs : SequencerInv s) (hphase : s.PHASE = .setup) (hch : s.CH = 0) (hk : s.STEP = 1)
    (hwf : s.CFG.wf = true) (hsent : s.SENT = 0) (hcnt : s.CNT = none) (hresults : resultsIn s.OUT = 0)
    (hopen : s.LINK.OPENED = true) : s.Moves .ginit where
  issues := ⟨0xE0, by rw [hphase, hch, hk]; rfl, rfl⟩
  ready _ := trivial
  keeps u hu := by
    obtain ⟨e, rfl | rfl⟩ := exec_ginit hu
    · obtain ⟨hphase', hch', hstep'⟩ := advance_position
        (u := { s with ENV := e, GPIO_DIR := .outputs, TRACE := s.TRACE ++ [.gin], RET := .ok })
        (p := .programming) (c := 1) (st := 0) (by simp only [hphase, hch, hk]; rfl)
      refine ⟨hs.noBreach, fun _ => ?_⟩
      simp only [State.positionHolds, hphase', hch', hstep']
      exact ⟨⟨hwf, hopen, rfl⟩, hcnt, hresults, Nat.le_refl 1, (wf_channelCount hwf).1,
        fun d hd => absurd hd (not_id_le_zero d), hsent⟩
    · exact keeps_takeError (t := { s with ENV := e }) hs.noBreach hs.alone _ _ _

theorem moves_arm {s : State} (hs : SequencerInv s) (hphase : s.PHASE = .ready) (hch : s.CH = 0) (hk : s.STEP = 0)
    (hup : s.broughtUp) (hcnt : s.CNT = none) (hresults : resultsIn s.OUT = 0) (hconf : s.configuredUpTo s.CFG.N)
    (hidle : s.atIdle) (hsent : s.SENT = 3 * s.CFG.N) : s.Moves .arm where
  issues := ⟨0xA0, by rw [hphase, hch, hk]; rfl, rfl⟩
  ready _ := trivial
  keeps u hu := by
    rw [exec_arm hu]
    have hK : 1 ≤ s.CFG.cycles := ((Cfg.wf_iff s.CFG).mp hup.1).2.1
    refine ⟨hs.noBreach, fun _ => ?_⟩
    refine positionHolds_polling (c := 1) (k := 0) hup hconf nofun ⟨_, rfl, hK, Nat.le_refl _⟩
      (by simp only [hphase, hch, hk]; rfl)
      ⟨(wf_channelCount hup.1).1, hresults.trans ?_, hcnt, hidle, hsent.trans ?_,
        fun d hd => absurd hd (not_id_le_zero d)⟩
    · simp [State.cyclesDone]
    · simp [State.cyclesDone]

/-- The sequencer's invariant places it before a move, unless its configuration is rejected. -/
theorem SequencerInv.moves {s : State} (hs : SequencerInv s) (hl : s.live) (haccepted : s.configRejected = false) :
    ∃ i, s.Moves i := by
  have hpos := hs.position
  unfold State.positionHolds at hpos
  cases hp : s.PHASE <;> rw [hp] at hpos
  case setup =>
    obtain ⟨hch, htrace, hsent, hcnt, hresults, ⟨hk, hclosed⟩ | ⟨hk, hwf, hopen⟩⟩ := hpos
    · have hwf : s.CFG.wf = true := by
        by_contra hwf
        rw [configRejected_iff.mpr ⟨hp, hch, hk, by simpa using hwf⟩] at haccepted
        cases haccepted
      exact ⟨_, moves_open hs hp hch hk hwf htrace hsent hcnt hresults hclosed⟩
    · exact ⟨_, moves_ginit hs hp hch hk hwf hsent hcnt hresults hopen⟩
  case programming =>
    obtain ⟨hup, hcnt, hresults, h1, hN, hat⟩ := hpos
    exact moves_programming hs ⟨hp, hup, hcnt, hresults, h1, hN⟩ hat
  case ready =>
    obtain ⟨hup, hcnt, hresults, hch, hk, hconf, hidle, hsent⟩ := hpos
    exact ⟨_, moves_arm hs hp hch hk hup hcnt hresults hconf hidle hsent⟩
  case polling =>
    obtain ⟨hup, hconf, hstamp, hcyc, hat⟩ := hpos
    have hin : s.InPolling := ⟨hp, hup, hconf, hstamp, hcyc⟩
    cases hch : s.CH with
    | zero => exact moves_polling_end hs hin hch (hch ▸ hat)
    | succ c => exact moves_polling_channel hs hin hch (hch ▸ hat)
  case done => exact absurd hp hl.1
  case halted => exact absurd hp hl.2

end Sys2Proof.Machine
end

section
/-! PROOFS. The sequencer's run: its invariant, that it is never refused, and that it comes to its end
(70_reset_and_hazards.md R259, R262; 43_polling_loop.md R177, R183, R190, R193). -/

namespace Sys2Proof.Machine

/-! The invariant (R259) and the absence of refusals (R262). -/

theorem advanceUnlessHalted_eq_next {o : Outcome} {t : State} :
    advanceUnlessHalted o = .next t ↔ ∃ u, o = .next u ∧ t = if u.PHASE = .halted then u else u.advance := by
  cases o <;> simp [advanceUnlessHalted, eq_comm]

/-- A move is the step of the sequencer. -/
theorem State.Moves.step {s : State} {i : Instr} (h : s.Moves i) (hs : SequencerInv s) (hl : s.live)
    (haccepted : s.configRejected = false) : step s = advanceUnlessHalted (exec i s) := by
  obtain ⟨w, hw, hdecode⟩ := h.issues
  exact step_of_romWord hs.alone hl haccepted hw hdecode

/-- Without a halt an operation leaves the position, the configuration and the fault record. -/
theorem position_of_exec {i : Instr} {s u : State} (h : exec i s = .next u) (hrun : u.PHASE ≠ .halted) :
    u.PHASE = s.PHASE ∧ u.CH = s.CH ∧ u.STEP = s.STEP ∧ u.CFG = s.CFG ∧ u.FAULT = s.FAULT := by
  obtain ⟨v, ⟨hphase, hch, hstep, hfault, -, -, hcfg, -⟩, ⟨r, -, rfl⟩ | ⟨k, i, rfl⟩⟩ := exec_ends h
  · exact ⟨hphase, hch, hstep, hcfg, hfault⟩
  · rcases takeError_cases v k i with ⟨-, e⟩ | ⟨-, e⟩ <;> rw [e] at hrun ⊢
    · exact ⟨hphase, hch, hstep, hcfg, hfault⟩
    · exact absurd rfl hrun

theorem positionHolds_of_halted {s : State} (h : s.PHASE = .halted) : s.positionHolds := by
  simp only [State.positionHolds, h]

/-- Settles O56: a rejected configuration halts, and a move keeps every part of the invariant. -/
theorem sequencerKeepsItsInvariant : Obligations.SequencerKeepsItsInvariant := by
  unfold Obligations.SequencerKeepsItsInvariant
  intro s t hs h
  obtain ⟨hl, hcases⟩ := step_sequencer hs.alone h
  by_cases hrejected : s.configRejected = true
  case pos =>
    obtain ⟨hphase, hch, hstep, hwf⟩ := configRejected_iff.mp hrejected
    cases (step_of_ill_formed hs.alone hphase hch hstep hwf).symm.trans h
    rw [(errorHaltsTheSequencerOnly s _ _).1 hs.alone]
    exact ⟨hs.alone, hs.noBreach, fun hrun => absurd rfl hrun, positionHolds_of_halted rfl⟩
  case neg =>
    rw [Bool.not_eq_true] at hrejected
    obtain ⟨i, hmove⟩ := hs.moves hl hrejected
    obtain ⟨u, hexec, rfl⟩ := advanceUnlessHalted_eq_next.mp ((hmove.step hs hl hrejected).symm.trans h)
    obtain ⟨hz, hnext⟩ := hmove.keeps u hexec
    have halone : u.REQS = [] := by
      obtain ⟨⟨-, -, -, hreqs⟩, -⟩ := operationsLeaveTheRestAlone i s u hexec
      rw [hreqs, hs.alone]
    split
    case isTrue hhalted => exact ⟨halone, hz, fun hrun => absurd hhalted hrun, positionHolds_of_halted hhalted⟩
    case isFalse hrun =>
      obtain ⟨-, -, -, -, hfault⟩ := position_of_exec hexec hrun
      exact ⟨halone, hz, fun _ => hfault.trans (hs.noFault hl.2), hnext hrun⟩

/-- Settles O58: the instruction at the position has its prerequisites, so that its operation completes (O49). -/
theorem sequencerIsNeverRefused : Obligations.SequencerIsNeverRefused := by
  unfold Obligations.SequencerIsNeverRefused
  intro s _ hs hl hadmitted
  by_cases hrejected : s.configRejected = true
  case pos =>
    obtain ⟨hphase, hch, hstep, hwf⟩ := configRejected_iff.mp hrejected
    exact ⟨_, step_of_ill_formed hs.alone hphase hch hstep hwf⟩
  case neg =>
    rw [Bool.not_eq_true] at hrejected
    obtain ⟨i, hmove⟩ := hs.moves hl hrejected
    obtain ⟨u, hexec⟩ := (operationsCompleteUnlessRefused i s).1 ⟨hl, hmove.ready hadmitted⟩
    rw [hmove.step hs hl hrejected, hexec]
    exact ⟨_, rfl⟩

/-! The words of the ROM and their places. -/

/-- The rows of the ROM that belong to no channel. -/
def singleRows : List (Phase × Nat × Nat × Byte) :=
  [(.setup, 0, 0, 0x10), (.setup, 0, 1, 0xE0), (.ready, 0, 0, 0xA0), (.polling, 0, 5, 0x80), (.polling, 0, 6, 0x90),
    (.polling, 0, 7, 0xB0)]

/-- Where a word of the ROM stands (30_encoding.md R104). -/
theorem romWord_cases {n : Nat} {p : Phase} {c k : Nat} {w : Byte} (h : romWord n p c k = some w) :
    (p = .programming ∧ 1 ≤ c ∧ c ≤ n ∧ programmingWords[k]? = some w) ∨
    (p = .polling ∧ 1 ≤ c ∧ c ≤ n ∧ pollingWords[k]? = some w) ∨ (p, c, k, w) ∈ singleRows := by
  unfold romWord at h
  split at h
  case h_3 c k =>
    split at h
    case isTrue hc => exact .inl ⟨rfl, hc.1, hc.2, h⟩
    case isFalse => cases h
  case h_8 c k _ _ _ =>
    split at h
    case isTrue hc => exact .inr (.inl ⟨rfl, hc.1, hc.2, h⟩)
    case isFalse => cases h
  case h_9 => cases h
  all_goals
    cases h
    exact .inr (.inr (by decide))

/-- A word of no channel's block stands at its own row only. -/
theorem singleRow_of_word {n : Nat} {p : Phase} {c k : Nat} {w : Byte} (h : romWord n p c k = some w)
    (hprogramming : w ∉ programmingWords) (hpolling : w ∉ pollingWords) : (p, c, k, w) ∈ singleRows := by
  rcases romWord_cases h with ⟨-, -, -, hk⟩ | ⟨-, -, -, hk⟩ | hrow
  · exact absurd (List.mem_of_getElem? hk) hprogramming
  · exact absurd (List.mem_of_getElem? hk) hpolling
  · exact hrow

theorem position_of_armWord {n : Nat} {p : Phase} {c k : Nat} (h : romWord n p c k = some 0xA0) :
    p = .ready ∧ c = 0 ∧ k = 0 := by
  simpa [singleRows] using singleRow_of_word h (by decide) (by decide)

theorem position_of_decWord {n : Nat} {p : Phase} {c k : Nat} (h : romWord n p c k = some 0xB0) :
    p = .polling ∧ c = 0 ∧ k = 7 := by
  simpa [singleRows] using singleRow_of_word h (by decide) (by decide)

/-! The steps left (R177, R183), phase by phase. -/

section

variable {s : State}

theorem stepsLeft_setup (h : s.PHASE = .setup) :
    s.stepsLeft = (2 - s.STEP) + 12 * s.CFG.N + 1 + s.CFG.cycles * (5 * s.CFG.N + 3) := by
  simp only [State.stepsLeft, h]

theorem stepsLeft_programming (h : s.PHASE = .programming) :
    s.stepsLeft = 12 * (s.CFG.N - s.CH) + (12 - s.STEP) + 1 + s.CFG.cycles * (5 * s.CFG.N + 3) := by
  simp only [State.stepsLeft, h]

theorem stepsLeft_ready (h : s.PHASE = .ready) : s.stepsLeft = 1 + s.CFG.cycles * (5 * s.CFG.N + 3) := by
  simp only [State.stepsLeft, h]

theorem stepsLeft_polling_end (h : s.PHASE = .polling) (hch : s.CH = 0) :
    s.stepsLeft = (8 - s.STEP) + (s.CYC.getD 0 - 1) * (5 * s.CFG.N + 3) := by
  simp only [State.stepsLeft, h, hch, if_true]

theorem stepsLeft_polling_channel (h : s.PHASE = .polling) (hch : 1 ≤ s.CH) :
    s.stepsLeft = 5 * (s.CFG.N - s.CH) + (5 - s.STEP) + 3 + (s.CYC.getD 0 - 1) * (5 * s.CFG.N + 3) := by
  simp only [State.stepsLeft, h, if_neg (Nat.ne_of_gt hch)]

theorem stepsLeft_done (h : s.PHASE = .done) : s.stepsLeft = 0 := by
  simp only [State.stepsLeft, h]

end

/-- Only `ARM` and `DEC` write the cycle counter, and each has its own word. -/
theorem cycles_of_word {s u : State} {w : Byte} {i : Instr} (harm : w ≠ 0xA0) (hdec : w ≠ 0xB0)
    (hdecode : decode [w] = .ok (i, [])) (h : exec i s = .next u) : u.CYC = s.CYC := by
  obtain ⟨-, -, hword⟩ := isEncoding_of_decode (cfg := s.CFG) hdecode
  obtain ⟨v, hv, hends⟩ := exec_effect h
  have hcyc : u.CYC = v.CYC := by
    obtain ⟨-, -, -, -, -, -, -, -, -, -, -, -, -, -, -, hcyc, -⟩ := ends_frame hends
    exact hcyc
  refine hcyc.trans (hv.cycles ?_ ?_)
  · rintro rfl
    exact harm (List.head_eq_of_cons_eq hword)
  · rintro rfl
    exact hdec (List.head_eq_of_cons_eq hword)

/-- One step fewer is left after the advance of a channel's programming. -/
theorem stepsLeft_advance_programming {u : State} (hphase : u.PHASE = .programming) (hN : u.CH ≤ u.CFG.N)
    (hk : u.STEP ≤ 11) : u.advance.stepsLeft + 1 = u.stepsLeft := by
  rw [stepsLeft_programming hphase]
  rcases Nat.lt_or_eq_of_le hk with hlt | hlast
  · obtain ⟨hphase', hch', hk'⟩ := advance_position (u := u)
      (by rw [hphase, nextPosition_programming _ _ _ (Nat.le_of_lt_succ hlt)])
    rw [stepsLeft_programming hphase', hch', hk', State.advance_CFG]
    omega
  · have hpos : nextPosition u.CFG.N u.CYC u.PHASE u.CH u.STEP =
        if u.CH < u.CFG.N then (.programming, u.CH + 1, 0) else (.ready, 0, 0) := by
      rw [hphase, hlast, nextPosition_programming_last]
    split at hpos <;> obtain ⟨hphase', hch', hk'⟩ := advance_position hpos
    · rw [stepsLeft_programming hphase', hch', hk', State.advance_CFG]
      omega
    · rw [stepsLeft_ready hphase', State.advance_CFG]
      omega

/-- One step fewer is left after the advance of a channel's turn. -/
theorem stepsLeft_advance_polling {u : State} (hphase : u.PHASE = .polling) (hc : 1 ≤ u.CH) (hN : u.CH ≤ u.CFG.N)
    (hk : u.STEP ≤ 4) : u.advance.stepsLeft + 1 = u.stepsLeft := by
  rw [stepsLeft_polling_channel hphase hc]
  rcases Nat.lt_or_eq_of_le hk with hlt | hlast
  · obtain ⟨hphase', hch', hk'⟩ := advance_position (u := u)
      (by rw [hphase, nextPosition_polling _ _ hc (Nat.le_of_lt_succ hlt)])
    rw [stepsLeft_polling_channel hphase' (hch' ▸ hc), hch', hk', State.advance_CFG, State.advance_CYC]
    omega
  · have hpos : nextPosition u.CFG.N u.CYC u.PHASE u.CH u.STEP =
        if u.CH < u.CFG.N then (.polling, u.CH + 1, 0) else (.polling, 0, 5) := by
      rw [hphase, hlast, nextPosition_polling_last _ _ hc]
    split at hpos <;> obtain ⟨hphase', hch', hk'⟩ := advance_position hpos
    · rw [stepsLeft_polling_channel hphase' (by omega), hch', hk', State.advance_CFG, State.advance_CYC]
      omega
    · rw [stepsLeft_polling_end hphase' hch', hk', State.advance_CFG, State.advance_CYC]
      omega

/-- One step fewer is left after the advance from a position whose operation leaves the cycle counter. -/
theorem stepsLeft_advance {u : State} {w : Byte} (hw : romWord u.CFG.N u.PHASE u.CH u.STEP = some w) (harm : w ≠ 0xA0)
    (hdec : w ≠ 0xB0) (hN : 1 ≤ u.CFG.N) : u.advance.stepsLeft + 1 = u.stepsLeft := by
  rcases romWord_cases hw with ⟨hphase, -, hc, hk⟩ | ⟨hphase, h1, hc, hk⟩ | hrow
  · exact stepsLeft_advance_programming hphase hc (Nat.le_of_lt_succ (List.getElem?_eq_some_iff.mp hk).1)
  · exact stepsLeft_advance_polling hphase h1 hc (Nat.le_of_lt_succ (List.getElem?_eq_some_iff.mp hk).1)
  · simp only [singleRows, List.mem_cons, Prod.mk.injEq, List.not_mem_nil, or_false] at hrow
    have next : ∀ {p c k p' c' k'}, u.PHASE = p → u.CH = c → u.STEP = k →
        nextPosition u.CFG.N u.CYC p c k = (p', c', k') →
        u.advance.PHASE = p' ∧ u.advance.CH = c' ∧ u.advance.STEP = k' := by
      rintro _ _ _ _ _ _ rfl rfl rfl h
      exact advance_position h
    rcases hrow with ⟨hp, hc, hk, -⟩ | ⟨hp, hc, hk, -⟩ | ⟨-, -, -, h⟩ | ⟨hp, hc, hk, -⟩ | ⟨hp, hc, hk, -⟩ | ⟨-, -, -, h⟩
    · obtain ⟨hp', hc', hk'⟩ := next hp hc hk rfl
      rw [stepsLeft_setup hp', stepsLeft_setup hp, hk', hk, State.advance_CFG]
      omega
    · obtain ⟨hp', hc', hk'⟩ := next hp hc hk rfl
      rw [stepsLeft_programming hp', stepsLeft_setup hp, hc', hk', hk, State.advance_CFG]
      omega
    · exact absurd h harm
    · obtain ⟨hp', hc', hk'⟩ := next hp hc hk rfl
      rw [stepsLeft_polling_end hp' hc', stepsLeft_polling_end hp hc, hk', hk, State.advance_CFG, State.advance_CYC]
      omega
    · obtain ⟨hp', hc', hk'⟩ := next hp hc hk rfl
      rw [stepsLeft_polling_end hp' hc', stepsLeft_polling_end hp hc, hk', hk, State.advance_CFG, State.advance_CYC]
      omega
    · exact absurd h hdec

/-- Past the check of the configuration it is well formed. -/
theorem SequencerInv.wf_of_accepted {s : State} (hs : SequencerInv s) (hl : s.live)
    (haccepted : s.configRejected = false) : s.CFG.wf = true := by
  have hpos := hs.position
  unfold State.positionHolds at hpos
  cases hp : s.PHASE <;> rw [hp] at hpos
  case setup =>
    obtain ⟨hch, -, -, -, -, ⟨hk, -⟩ | ⟨-, hwf, -⟩⟩ := hpos
    · by_contra hwf
      rw [configRejected_iff.mpr ⟨hp, hch, hk, by simpa using hwf⟩] at haccepted
      cases haccepted
    · exact hwf
  case programming => exact hpos.1.1
  case ready => exact hpos.1.1
  case polling => exact hpos.1.1
  case done => exact absurd hp hl.1
  case halted => exact absurd hp hl.2

/-- `ARM` starts the count of the cycles. -/
theorem stepsLeft_arm {s u : State} (hK : 1 ≤ s.CFG.cycles) (hN : 1 ≤ s.CFG.N) (hphase : s.PHASE = .ready)
    (hch : s.CH = 0) (hk : s.STEP = 0) (h : exec .arm s = .next u) : u.advance.stepsLeft + 1 = s.stepsLeft := by
  rw [exec_arm h]
  obtain ⟨hphase', hch', hk'⟩ := advance_position (p := .polling) (c := 1) (st := 0)
    (u := { s with CYC := some s.CFG.cycles, LAST_T := some s.ENV.now.1, ENV := s.ENV.now.2, RET := .ok })
    (by simp only [hphase, hch, hk]; rfl)
  rw [stepsLeft_polling_channel hphase' (Nat.le_of_eq hch'.symm), stepsLeft_ready hphase, hch', hk']
  obtain ⟨K, hK⟩ := Nat.exists_eq_add_of_le' hK
  simp only [State.advance_CFG, State.advance_CYC, Option.getD_some, hK, Nat.add_sub_cancel, Nat.succ_mul]
  omega

/-- `DEC` takes one cycle off the count. -/
theorem stepsLeft_dec {s u : State} (hN : 1 ≤ s.CFG.N) (hphase : s.PHASE = .polling) (hch : s.CH = 0) (hk : s.STEP = 7)
    (h : exec .dec s = .next u) : u.advance.stepsLeft + 1 = s.stepsLeft := by
  obtain ⟨n, hn, rfl⟩ := exec_dec h
  have hpos : nextPosition s.CFG.N (some n) s.PHASE s.CH s.STEP =
      if n > 0 then (.polling, 1, 0) else (.done, 0, 0) := by
    rw [hphase, hch, hk, nextPosition_polling_dec, Option.getD_some]
  have hleft : s.stepsLeft = 1 + n * (5 * s.CFG.N + 3) := by
    rw [stepsLeft_polling_end hphase hch, hk, hn]
    rfl
  rw [hleft]
  cases n with
  | zero =>
    obtain ⟨hphase', -⟩ := advance_position (u := { s with CYC := some 0, RET := .ok }) hpos
    rw [stepsLeft_done hphase']
    omega
  | succ n =>
    obtain ⟨hphase', hch', hk'⟩ := advance_position (u := { s with CYC := some (n + 1), RET := .ok }) hpos
    rw [stepsLeft_polling_channel hphase' (Nat.le_of_eq hch'.symm), hch', hk']
    simp only [State.advance_CFG, State.advance_CYC, Option.getD_some, Nat.add_sub_cancel, Nat.succ_mul]
    omega

/-- Before `Done` some step is left. -/
theorem stepsLeft_pos {s : State} (h : RomPosition s.CFG.N s.PHASE s.CH s.STEP) : 0 < s.stepsLeft := by
  rcases h with ⟨hp, -⟩ | ⟨hp, -⟩ | ⟨hp, -⟩ | ⟨hp, h1, -⟩ | ⟨hp, hch, -, hk⟩
  · rw [stepsLeft_setup hp]; omega
  · rw [stepsLeft_programming hp]; omega
  · rw [stepsLeft_ready hp]; omega
  · rw [stepsLeft_polling_channel hp h1]; omega
  · rw [stepsLeft_polling_end hp hch]; omega

theorem SequencerInv.stepsLeft_eq_zero {s : State} (hs : SequencerInv s) (hrun : s.PHASE ≠ .halted) :
    s.stepsLeft = 0 ↔ s.PHASE = .done := by
  refine ⟨fun h => ?_, stepsLeft_done⟩
  by_contra hdone
  exact Nat.ne_of_gt (stepsLeft_pos (hs.romPosition ⟨hdone, hrun⟩)) h

/-- Settles O59: the operation leaves the count of the steps unless it is `ARM` or `DEC`, and the advance takes one off
it. -/
theorem sequencerStepsCountDown : Obligations.SequencerStepsCountDown := by
  unfold Obligations.SequencerStepsCountDown
  intro s t hs h hrun
  refine ⟨?_, (sequencerKeepsItsInvariant s t hs h).stepsLeft_eq_zero hrun⟩
  obtain ⟨hl, ⟨-, rfl⟩ | ⟨w, i, u, haccepted, hw, hdecode, hexec, rfl⟩⟩ := step_sequencer hs.alone h
  case inl => exact absurd (takeError_PHASE hs.alone _ _) hrun
  case inr =>
    have hgoes : u.PHASE ≠ .halted := fun hhalted => hrun (by rw [if_pos hhalted]; exact hhalted)
    rw [if_neg hgoes]
    have hwf := hs.wf_of_accepted hl haccepted
    have hN := (wf_channelCount hwf).1
    by_cases harm : w = 0xA0
    case pos =>
      subst harm
      cases hdecode
      obtain ⟨hphase, hch, hk⟩ := position_of_armWord hw
      exact stepsLeft_arm ((Cfg.wf_iff _).mp hwf).2.1 hN hphase hch hk hexec
    by_cases hdec : w = 0xB0
    case pos =>
      subst hdec
      cases hdecode
      obtain ⟨hphase, hch, hk⟩ := position_of_decWord hw
      exact stepsLeft_dec hN hphase hch hk hexec
    case neg =>
      obtain ⟨hphase, hch, hk, hcfg, -⟩ := position_of_exec hexec hgoes
      have hsame : u.stepsLeft = s.stepsLeft := by
        simp only [State.stepsLeft, hphase, hch, hk, hcfg, cycles_of_word harm hdec hdecode hexec]
      rw [← hsame]
      exact stepsLeft_advance (w := w) (by rw [hphase, hch, hk, hcfg, hw]) harm hdec (hcfg ▸ hN)

/-! Runs. -/

/-- A halted machine goes no further. -/
theorem phase_ne_halted_of_stepsTo {n : Nat} {s t : State} (h : stepsTo n s t) (hrun : t.PHASE ≠ .halted) :
    s.PHASE ≠ .halted := by
  cases n with
  | zero => exact h ▸ hrun
  | succ n =>
    obtain ⟨u, hstep, -⟩ := h
    intro hhalted
    obtain ⟨r, hr⟩ := (terminalPhasesRunNothing s fun hl => hl.2 hhalted).2
    cases hr.symm.trans hstep

/-- A run that is not halted keeps both invariants and the configuration, and each of its steps takes one off the
count. -/
theorem stepsTo_keeps {n : Nat} {s t : State} (hm : MachineInv s) (hs : SequencerInv s) (h : stepsTo n s t)
    (hrun : t.PHASE ≠ .halted) : MachineInv t ∧ SequencerInv t ∧ t.CFG = s.CFG ∧ t.stepsLeft + n = s.stepsLeft := by
  induction n generalizing s with
  | zero =>
    obtain rfl := h
    exact ⟨hm, hs, rfl, rfl⟩
  | succ n ih =>
    obtain ⟨u, hstep, hrest⟩ := h
    obtain ⟨hmt, hst, hcfg, hleft⟩ := ih (stepKeepsTheInvariant s u hm hstep)
      (sequencerKeepsItsInvariant s u hs hstep) hrest
    have hone := (sequencerStepsCountDown s u hs hstep (phase_ne_halted_of_stepsTo hrest hrun)).1
    exact ⟨hmt, hst, hcfg.trans (grows_step hstep).constant, by omega⟩

theorem stepsLeft_resetWith (cfg : Cfg) (levels : Pattern) (eff : LinkParams) (env : Environment) :
    (State.resetWith cfg levels eff env).stepsLeft = 2 + 12 * cfg.N + 1 + cfg.K.getD 1 * (5 * cfg.N + 3) := rfl

/-- Settles O60: what the invariants say of `Done`, at the end of a run from process start. -/
theorem completedRunIsAccountedFor : Obligations.CompletedRunIsAccountedFor := by
  unfold Obligations.CompletedRunIsAccountedFor
  intro cfg levels eff env n t h hdone
  have hrun : t.PHASE ≠ .halted := by rw [hdone]; nofun
  obtain ⟨hm, hs, hcfg, hleft⟩ := stepsTo_keeps (machineInv_resetWith _ _ _ _) (sequencerInv_resetWith _ _ _ _) h hrun
  have hcfg : t.CFG = cfg := hcfg
  have hpos := hs.position
  simp only [State.positionHolds, hdone, hcfg] at hpos
  obtain ⟨-, -, hopen, -, hconf, hidle, hcyc, hsent, hresults⟩ := hpos
  rw [stepsLeft_done hdone, stepsLeft_resetWith] at hleft
  exact ⟨hcfg ▸ hidle, hcyc, hresults, hsent, hm.counters.1.symm.trans hsent, hs.noFault hrun, hs.noBreach,
    hm.exit.1.mpr hdone, hopen, hconf, by omega⟩

end Sys2Proof.Machine
end

section
/-! PROOFS. Opening the link (40_transport.md R121 to R123, 60_exceptions.md R221). -/

namespace Sys2Proof.Machine

/-! The driver calls of `OPEN`, by what the driver answers. -/

theorem openDevice_ok {s : State} {e : Environment} (h : s.ENV.call = (true, e)) :
    openDevice s = .ok () { s with ENV := e } := by
  simp only [openDevice, h]

theorem openDevice_error {s : State} {e : Environment} (h : s.ENV.call = (false, e)) :
    openDevice s = .error .ioError (.openDevice s.LINK.REQ.DEVICE) { s with ENV := e } := by
  simp only [openDevice, h]

theorem negotiate_ok {s : State} {p : Param} {e e' : Environment} {v : Nat} (hw : s.ENV.call = (true, e))
    (hr : e.read = (some v, e')) : negotiate p s = .ok v { s with ENV := e' } := by
  simp only [negotiate, hw, hr]

theorem negotiate_write_error {s : State} {p : Param} {e : Environment} (hw : s.ENV.call = (false, e)) :
    negotiate p s = .error .ioError (.writeParam p (p.requested s.LINK.REQ)) { s with ENV := e } := by
  simp only [negotiate, hw]

theorem negotiate_read_error {s : State} {p : Param} {e e' : Environment} (hw : s.ENV.call = (true, e))
    (hr : e.read = (none, e')) : negotiate p s = .error .ioError (.readParam p) { s with ENV := e' } := by
  simp only [negotiate, hw, hr]

theorem exec_openLink_of_closed {s : State} (hl : s.live) (hclosed : s.LINK.OPENED = false) :
    exec .openLink s = .next ((openEffect s).settle fun _ => .ok) := by
  change guarded [s.inTerminal, (s.LINK.OPENED, .alreadyOpen)] _ = _
  rw [guarded_inTerminal_of_live hl, hclosed, guarded_cons_false, guarded_nil]

theorem openEffect_of_negotiated {s t : State} {mode speed bpw : Nat}
    (h : negotiateAll s = .ok (mode, speed, bpw) t) : openEffect s = .ok () (t.opened mode speed bpw) := by
  simp only [openEffect, h]

/-- An `OPEN` that fails leaves the link closed, with a free value as `LINK.EFF`. -/
theorem exec_openLink_of_failed {s : State} {e : Environment} {info : ErrInfo} (hl : s.live)
    (hclosed : s.LINK.OPENED = false) (h : negotiateAll s = .error .ioError info { s with ENV := e }) :
    ∃ eff drawn, exec .openLink s =
      .next (({ s with LINK := { s.LINK with EFF := eff }, ENV := { e with drawn := drawn } } : State).takeError
        .ioError info) := by
  rw [exec_openLink_of_closed hl hclosed]
  refine ⟨Config.failedEff e.drawn, e.drawn + 1, ?_⟩
  simp only [openEffect, h, Result.error_settle]
  rfl

/-- No warning is given where every value read back is the one requested (10_state.md R28). -/
theorem mismatch_eq_none {req : LinkRequest} {eff : LinkParams}
    (h : eff.MODE = req.MODE.word ∧ eff.SPEED_HZ = req.SPEED_HZ ∧ eff.BPW = req.BPW) : mismatch req eff = none := by
  simp [mismatch, h]

theorem mismatch_eq_some {req : LinkRequest} {eff : LinkParams}
    (h : ¬ (eff.MODE = req.MODE.word ∧ eff.SPEED_HZ = req.SPEED_HZ ∧ eff.BPW = req.BPW)) :
    mismatch req eff = some ⟨req.MODE.word, eff.MODE, req.SPEED_HZ, eff.SPEED_HZ, req.BPW, eff.BPW⟩ := by
  rw [not_and_or, not_and_or] at h
  exact if_pos h

/-- Settles O11: the seven calls in their order, then the comparison with the request. -/
theorem openNegotiatesTheLink : Obligations.OpenNegotiatesTheLink := by
  unfold Obligations.OpenNegotiatesTheLink
  intro s e1 e2 e3 e4 e5 e6 e7 mode speed bpw hl hclosed h1 h2 h3 h4 h5 h6 h7
  have hall : negotiateAll s = .ok (mode.toNat, speed, bpw) { s with ENV := e7 } := by
    rw [negotiateAll, openDevice_ok h1, Result.ok_andThen, negotiate_ok h2 h3, Result.ok_andThen, negotiate_ok h4 h5,
      Result.ok_andThen, negotiate_ok h6 h7, Result.ok_andThen]
  have hexec := exec_openLink_of_closed hl hclosed
  rw [openEffect_of_negotiated hall, Result.ok_settle, State.opened, BitVec.ofNat_toNat, BitVec.setWidth_eq] at hexec
  refine ⟨ModeFlags.word_getLsbD _, fun hsame => ?_, fun hother => ?_⟩
  · rw [hexec, mismatch_eq_none hsame]
  · rw [hexec, mismatch_eq_some hother]
    rfl

/-- Settles O12: up to the failing call the driver's answers are used up, and nothing else has changed. -/
theorem openFailsAtTheFirstFailingCall : Obligations.OpenFailsAtTheFirstFailingCall := by
  unfold Obligations.OpenFailsAtTheFirstFailingCall
  intro s hl hclosed
  refine ⟨fun e1 h1 => ?_, fun e1 e2 h1 h2 => ?_, fun e1 e2 e3 h1 h2 h3 => ?_, fun e1 e2 e3 e4 m h1 h2 h3 h4 => ?_,
    fun e1 e2 e3 e4 e5 m h1 h2 h3 h4 h5 => ?_, fun e1 e2 e3 e4 e5 e6 m v h1 h2 h3 h4 h5 h6 => ?_,
    fun e1 e2 e3 e4 e5 e6 e7 m v h1 h2 h3 h4 h5 h6 h7 => ?_⟩
  all_goals refine exec_openLink_of_failed hl hclosed ?_
  · rw [negotiateAll, openDevice_error h1, Result.error_andThen]
  all_goals rw [negotiateAll, openDevice_ok h1, Result.ok_andThen]
  · rw [negotiate_write_error h2, Result.error_andThen]
    rfl
  · rw [negotiate_read_error h2 h3, Result.error_andThen]
  all_goals rw [negotiate_ok h2 h3, Result.ok_andThen]
  · rw [negotiate_write_error h4, Result.error_andThen]
    rfl
  · rw [negotiate_read_error h4 h5, Result.error_andThen]
  all_goals rw [negotiate_ok h4 h5, Result.ok_andThen]
  · rw [negotiate_write_error h6, Result.error_andThen]
    rfl
  · rw [negotiate_read_error h6 h7, Result.error_andThen]

end Sys2Proof.Machine
end

section
/-! PROOFS. The exchange and the operations of one exchange (40_transport.md R125 to R128, 42_encoder_commands.md R155
to R164, 60_exceptions.md R227). -/

namespace Sys2Proof.Machine

/-- An operation none of whose conditions holds is performed. -/
theorem guarded_of_passed {cs : List (Bool × Refusal)} (h : ∀ c ∈ cs, c.1 = false) (t : State) :
    guarded cs t = .next t :=
  guarded_eq_next.mpr ⟨h, rfl⟩

/-- Settles O13: the table of R126, row by row, over the predicates of the effective mode. -/
theorem presentBuffersFollowTheEffectiveMode : Obligations.PresentBuffersFollowTheEffectiveMode := by
  unfold Obligations.PresentBuffersFollowTheEffectiveMode
  intro s tx
  refine ⟨fun hl => present_loopback hl tx, fun hl ht _ => ?_, fun hl ht _ => ?_, fun hl ht hr => ?_,
    fun hl ht hr => ?_, rfl, ?_, ?_⟩
  · simp [State.present, hl, ht]
  · simp [State.present, hl, ht]
  · simp [State.present, hl, ht, hr]
  · simp [State.present, hl, ht, hr]
  · simp [State.txMulti, or_assoc]
  · simp [State.rxMulti, or_assoc]

theorem exec_xchg {s : State} (hl : s.live) (ho : s.LINK.OPENED = true) (tx : List Byte) :
    exec (.xchg tx) s = .next ((exchange tx s).settle .bytes) :=
  guarded_of_passed (cs := [s.inTerminal, s.linkClosed]) (by simp [hl, ho]) _

/-- Settles O14: on an open link the raw exchange is the exchange itself. -/
theorem exchangeMovesAndCounts : Obligations.ExchangeMovesAndCounts := by
  unfold Obligations.ExchangeMovesAndCounts
  intro s tx rx e hl ho hm hlb
  rw [exec_xchg hl ho, exchange_of_moves hm hlb, Result.ok_settle]

/-! Operations of one exchange. -/

theorem command_of_eq_xchg {i : Instr} {tx : List Byte} (h : i = .xchg tx) : i.command = none := by
  rw [h]
  rfl

/-- `HAZ` after an operation of one exchange: set before, or a duty is broken. -/
theorem hazard_or_breaks {s : State} {i : Instr} (hw : s.CFG.wf = true ∨ i.command = none) :
    (s.HAZ || s.breaks i) = true ↔ s.HAZ = true ∨ ¬ s.keepsDuty i := by
  rw [Bool.or_eq_true, breaks_iff hw]

/-- Settles O15: the duty is noted before the transfer, whose failure changes the buffers and the answers only. -/
theorem failedTransferIsAnError : Obligations.FailedTransferIsAnError := by
  unfold Obligations.FailedTransferIsAnError
  intro s i tx a e hl hf ho ha ht hne
  refine ⟨s.HAZ || s.breaks i, fun h => by simp [h], fun hw => hazard_or_breaks (hw.imp_right command_of_eq_xchg), ?_⟩
  rw [exec_frame hf hl ho ha, exchange_of_failure (s := s.noteBreach (s.breaks i)) ht hne]
  rfl

/-- Settles O16: the exchange has taken place when it is compared, and nothing continues the comparison's error. -/
theorem loopbackMismatchIsAnIntegrityError : Obligations.LoopbackMismatchIsAnIntegrityError := by
  unfold Obligations.LoopbackMismatchIsAnIntegrityError
  intro s i tx rx e hl hf ho hlb hm hne hraise
  refine ⟨s.HAZ || s.breaks i, fun h => by simp [h], fun hw => hazard_or_breaks (hw.imp_right command_of_eq_xchg), ?_⟩
  rw [exec_frame hf hl ho (.inl (admitted_of_loopback hlb)),
    exchange_of_mismatch (s := s.noteBreach (s.breaks i)) hm hlb hne, integrityOr_error (by exact hraise)]
  rfl

/-- The command of an operation of one exchange is the byte it sends, and the exchange is not the data fetch. -/
theorem frame_of_command {i : Instr} {k : Cmd} (h : i.command = some k) (cfg : Cfg) :
    frameOf cfg i = some [cfg.cmdByte k] ∧ i.fetches = false := by
  cases i with
  | xcmd | cmdSelCtrl | cmdSetQuad | cmdSetSec | cmdReadPos => cases h; exact ⟨rfl, rfl⟩
  | _ => cases h

/-- What an operation of one exchange does with the bytes received: a fetch takes them as its sample, and a third
programming write configures its channel. -/
theorem takeAnswer_eq {t : State} {i : Instr} {tx rx : List Byte} {trace : List BusEvent} {enc : Six EncState}
    (hf : frameOf t.CFG i = some tx) (hw : t.CFG.wf = true ∨ i.command = none)
    (htrace : t.TRACE = trace ++ [.xfr t.A (some tx) (some rx)])
    (henc : ∀ c, enc.get c = .configured ↔ t.ENC.get c = .configured ∨
      (i.command = some .setSec ∧ t.A = t.CFG.pattern c ∧
        (sentAt t.A trace).reverse.take 2 = [some [t.CFG.CMD_SET_QUAD], some [t.CFG.CMD_SEL_CTRL]])) :
    t.takeAnswer i (some rx) = { t with CNT := if i.fetches then some (be32 rx) else t.CNT, ENC := enc } := by
  by_cases hc : i.command = some .setSec
  · obtain ⟨hframe, hfetch⟩ := frame_of_command hc t.CFG
    cases hf.symm.trans hframe
    have hwf : t.CFG.wf = true := hw.resolve_right (by simp [hc])
    simp only [State.takeAnswer, hfetch, hc, Bool.false_eq_true, if_false, if_true]
    exact noteProgrammed_eq hwf htrace fun c => by simpa [hc] using henc c
  · have hkept : enc = t.ENC := Six.ext_get fun c => EncState.ext_configured (by simpa [hc] using henc c)
    cases hfetch : i.fetches <;> simp [State.takeAnswer, hfetch, hc, hkept]

/-- An operation of one exchange whose exchange completes with the bytes `rx`, with `out` reported: its full next
state. -/
theorem exec_of_exchange_ok {s : State} {i : Instr} {tx rx : List Byte} {e : Environment} {out : List OutEvent}
    {haz : Bool} {enc : Six EncState} (hl : s.live) (hf : frameOf s.CFG i = some tx)
    (hw : s.CFG.wf = true ∨ i.command = none) (ho : s.LINK.OPENED = true) (ha : s.admitted = true ∨ i = .xchg tx)
    (henc : ∀ c, enc.get c = .configured ↔ s.ENC.get c = .configured ∨
      (i.command = some .setSec ∧ s.A = s.CFG.pattern c ∧
        (sentAt s.A s.TRACE).reverse.take 2 = [some [s.CFG.CMD_SET_QUAD], some [s.CFG.CMD_SEL_CTRL]]))
    (hx : exchange tx (s.noteBreach (s.breaks i)) =
      .ok (some rx)
        { s with
          HAZ := haz, TXBUF := none, RXBUF := none, SENT := s.SENT + tx.length, RCVD := s.RCVD + tx.length,
          TRACE := s.TRACE ++ [.xfr s.A (some tx) (some rx)], OUT := s.OUT ++ out, ENV := e }) :
    exec i s =
      .next { s with
        TXBUF := none, RXBUF := none, CNT := if i.fetches then some (be32 rx) else s.CNT, ENC := enc, HAZ := haz,
        SENT := s.SENT + tx.length, RCVD := s.RCVD + tx.length,
        TRACE := s.TRACE ++ [.xfr s.A (some tx) (some rx)], OUT := s.OUT ++ out, ENV := e,
        RET := if i.fetches then .count (be32 rx) else if i.command = none then .bytes (some rx) else .ok } := by
  rw [exec_frame hf hl ho ha, hx, Result.ok_andThen,
    takeAnswer_eq (by exact hf) (by exact hw) (by rfl) (by exact henc)]
  rfl

/-- Settles O17: the comparison's error is reported, and the operation goes on with the bytes received. -/
theorem integrityErrorContinues : Obligations.IntegrityErrorContinues := by
  unfold Obligations.IntegrityErrorContinues
  intro s i tx rx e haz enc hl hf hw ho hlb hreqs hcont hm hne hhaz henc
  have hw := hw.imp_right command_of_eq_xchg
  have hseq : s.sequenced = true := State.sequenced_iff.mpr hreqs
  have hbreak := hazard_eq_or hhaz (breaks_iff hw)
  refine exec_of_exchange_ok hl hf hw ho (.inl (admitted_of_loopback hlb)) henc ?_
  rw [exchange_of_mismatch (s := s.noteBreach (s.breaks i)) hm hlb hne, hbreak]
  exact if_pos (by simp [State.sequenced, hreqs, hcont])

/-- An exchange of the encoder protocol that succeeds and needs no report, with a duty noted. -/
theorem exchange_noteBreach {s : State} {tx rx : List Byte} {e : Environment} (broken : Bool)
    (ha : s.admitted = true) (hm : s.ENV.moves tx.length rx e) (hlb : s.loopback = true → rx = tx) :
    exchange tx (s.noteBreach broken) =
      .ok (some rx)
        { s with
          HAZ := s.HAZ || broken, TXBUF := none, RXBUF := none, SENT := s.SENT + tx.length,
          RCVD := s.RCVD + tx.length, TRACE := s.TRACE ++ [.xfr s.A (some tx) (some rx)], OUT := s.OUT ++ [],
          ENV := e } := by
  have hp : (s.noteBreach broken).present tx = (some tx, true) := State.present_of_admitted ha tx
  rw [exchange_of_moves (s := s.noteBreach broken) hm hlb, hp, List.append_nil]
  rfl

/-- The duties of a command are those of any operation that sends it. -/
theorem keepsDuty_of_command {s : State} {i : Instr} {k : Cmd} (h : i.command = some k) :
    s.keepsDuty i ↔ s.commandDuty k := by
  simp [State.keepsDuty, h, (frame_of_command h s.CFG).2]

/-- Settles O27: both forms of the command send its byte, and keep its duties. -/
theorem commandSendsOneByte : Obligations.CommandSendsOneByte := by
  unfold Obligations.CommandSendsOneByte
  intro s k i rx e haz enc hi hl hw ho ha hm hlb hhaz henc
  have hc : i.command = some k := by
    rcases hi with rfl | rfl
    · rfl
    · cases k <;> rfl
  obtain ⟨hf, hfetch⟩ := frame_of_command hc s.CFG
  rw [← keepsDuty_of_command hc] at hhaz
  have hbreak := hazard_eq_or hhaz (breaks_iff (.inl hw))
  have h := exec_of_exchange_ok hl hf (.inl hw) ho (.inl ha) (by simpa [hc] using henc)
    (hbreak ▸ exchange_noteBreach (tx := [s.CFG.cmdByte k]) (s.breaks i) ha hm hlb)
  simpa [hfetch, hc] using h

/-- Settles O28: both forms of the fetch send the fill bytes, and take the four bytes received as the sample. -/
theorem fetchAssemblesTheCounter : Obligations.FetchAssemblesTheCounter := by
  unfold Obligations.FetchAssemblesTheCounter
  intro s i b0 b1 b2 b3 e haz hi hl ho ha hm hlb hhaz
  have hfetch : frameOf s.CFG i = some s.CFG.fetchFrame ∧ i.command = none ∧ i.fetches = true := by
    rcases hi with rfl | rfl <;> exact ⟨rfl, rfl, rfl⟩
  obtain ⟨hf, hc, hfetch⟩ := hfetch
  have hduty : s.keepsDuty i ↔ s.fetchDuty := by simp [State.keepsDuty, hc, hfetch]
  rw [← hduty] at hhaz
  have hbreak := hazard_eq_or hhaz (breaks_iff (.inr hc))
  have h := exec_of_exchange_ok (enc := s.ENC) hl hf (.inr hc) ho (.inl ha) (by simp [hc])
    (hbreak ▸ exchange_noteBreach (tx := s.CFG.fetchFrame) (s.breaks i) ha hm hlb)
  simp only [hfetch, if_true, List.append_nil] at h
  exact h

/-- The prepared answer of a response frame is used up by its fetch (30_encoding.md R93). -/
theorem answering_moves (env : Environment) (bs : List Byte) : (env.answering bs).moves bs.length bs env :=
  ⟨rfl, Environment.receive_prepared bs env.bytes env⟩

/-- Settles O29: the response frame is defined as that fetch, whose full next state is known. -/
theorem responseFrameIsTheCounter : Obligations.ResponseFrameIsTheCounter := by
  unfold Obligations.ResponseFrameIsTheCounter
  intro s b0 b1 b2 b3 haz
  have hmoves := answering_moves s.ENV [b0, b1, b2, b3]
  refine ⟨rfl, hmoves, fun hl ho ha hlb hhaz => ?_⟩
  exact fetchAssemblesTheCounter { s with ENV := s.ENV.answering [b0, b1, b2, b3] } .xfetch b0 b1 b2 b3 s.ENV haz
    (.inl rfl) hl ho ha hmoves hlb hhaz

/-! The loopback comparison (R128). -/

/-- The differences listed from index `i` on are those of the positions reached from there. -/
theorem mem_diffsFrom {i : Nat} {tx rx : List Byte} {d : Diff} :
    d ∈ diffsFrom i tx rx ↔
      ∃ n, d.index = i + n ∧ tx[n]? = some d.sent ∧ rx[n]? = some d.received ∧ d.sent ≠ d.received := by
  induction tx generalizing i rx with
  | nil => simp [diffsFrom]
  | cons t tx ih =>
    cases rx with
    | nil => simp [diffsFrom]
    | cons r rx =>
      have hhead : d = ⟨i, t, r⟩ ↔ d.index = i ∧ t = d.sent ∧ r = d.received := by
        obtain ⟨j, a, b⟩ := d
        simp [eq_comm]
      have hsplit : d ∈ diffsFrom i (t :: tx) (r :: rx) ↔ (t ≠ r ∧ d = ⟨i, t, r⟩) ∨ d ∈ diffsFrom (i + 1) tx rx := by
        by_cases e : t = r <;> simp [diffsFrom, e]
      rw [hsplit, ih, hhead]
      constructor
      · rintro (⟨hne, hi, rfl, rfl⟩ | ⟨n, hn, h⟩)
        · exact ⟨0, hi, rfl, rfl, hne⟩
        · exact ⟨n + 1, by omega, h⟩
      · rintro ⟨n | n, hn, h⟩
        · obtain ⟨hs, hr, hne⟩ := h
          cases Option.some.inj hs
          cases Option.some.inj hr
          exact .inl ⟨hne, hn, rfl, rfl⟩
        · exact .inr ⟨n, by omega, h⟩

theorem pairwise_diffsFrom (i : Nat) (tx rx : List Byte) :
    ((diffsFrom i tx rx).map (·.index)).Pairwise (· < ·) := by
  induction tx generalizing i rx with
  | nil => simp [diffsFrom]
  | cons t tx ih =>
    cases rx with
    | nil => simp [diffsFrom]
    | cons r rx =>
      by_cases e : t = r
      · simpa [diffsFrom, e] using ih (i + 1) rx
      · have hlater : ∀ d ∈ diffsFrom (i + 1) tx rx, i < d.index := by
          intro d hd
          obtain ⟨n, hn, -⟩ := mem_diffsFrom.mp hd
          omega
        simpa [diffsFrom, e] using ⟨hlater, by simpa using ih (i + 1) rx⟩

/-- Settles O18: by induction on the sequences, for every index to count from. -/
theorem differencesAreExact : Obligations.DifferencesAreExact := by
  unfold Obligations.DifferencesAreExact
  intro tx rx
  refine ⟨fun d => mem_diffsFrom.trans ?_, pairwise_diffsFrom 0 tx rx⟩
  simp

/-- `VLOOP` after an exchange is the comparison of its buffers. -/
theorem exec_vloop_of_split {s : State} {before after : List BusEvent} {a : Pattern} {sent got : Option (List Byte)}
    (hl : s.live) (ht : s.TRACE = before ++ .xfr a sent got :: after) (ha : ∀ a' tx' rx', .xfr a' tx' rx' ∉ after) :
    exec .vloop s = .next ((verifyLoop sent got () s).settle fun _ => .ok) := by
  have hlatest := latestExchange_of_split ht ha
  have hverify : verifyLatest s = verifyLoop sent got () s := by simp only [verifyLatest, hlatest]
  rw [← hverify]
  exact guarded_of_passed (cs := [s.inTerminal, (s.latestExchange.isNone, .noExchange)]) (by simp [hl, hlatest]) _

theorem verifyLoop_of_no_diffs {α : Type} {tx rx : Option (List Byte)} {s : State}
    (h : s.loopback = false ∨ loopDiffs tx rx = []) (v : α) : verifyLoop tx rx v s = .ok v s := by
  rcases h with h | h
  · simp [verifyLoop, h]
  · simp [verifyLoop, h]

/-- Settles O19: the comparison passes without a difference, and its error is raised where nothing continues it. -/
theorem vloopComparesTheLatestExchange : Obligations.VloopComparesTheLatestExchange := by
  unfold Obligations.VloopComparesTheLatestExchange
  intro s before after a sent got hl ht ha
  rw [exec_vloop_of_split hl ht ha]
  refine ⟨fun hlb => ?_, fun hsame => ?_, fun tx rx hsent hgot hlen hlb hne hraise => ?_⟩
  · rw [verifyLoop_of_no_diffs (.inl hlb), Result.ok_settle]
  · rw [verifyLoop_of_no_diffs (.inr (by rw [hsame, loopDiffs, diffsFrom_self])), Result.ok_settle]
  · have hd : diffsFrom 0 tx rx ≠ [] := fun h => hne ((diffsFrom_eq_nil hlen).mp h)
    obtain ⟨d, ds, hds⟩ := List.exists_cons_of_ne_nil hd
    rw [hsent, hgot, verifyLoop, if_pos hlb, loopDiffs_some, hds]
    dsimp only
    rw [integrityOr_error hraise, Result.error_settle]

end Sys2Proof.Machine
end

section
/-! PROOFS. The lines: their direction, the served channel, the address word, and exclusiveness (41_channel_select.md
R140, R145, R147; 30_encoding.md R91). -/

namespace Sys2Proof.Machine

theorem exec_ginit_of_live {s : State} (hl : s.live) :
    exec .ginit s = .next ((ginitEffect s).settle fun _ => .ok) :=
  guarded_of_passed (cs := [s.inTerminal]) (by simp [hl]) _

/-- Settles O20: by the driver's answer to the one call. -/
theorem ginitMakesTheLinesOutputs : Obligations.GinitMakesTheLinesOutputs := by
  unfold Obligations.GinitMakesTheLinesOutputs
  refine ⟨rfl, fun s e hl => ⟨fun hcall => ?_, fun hcall => ?_⟩⟩
  · rw [exec_ginit_of_live hl]
    simp only [ginitEffect, hcall, Result.ok_settle]
  · rw [exec_ginit_of_live hl]
    simp only [ginitEffect, hcall, Result.error_settle]

/-! The served channel (R145). -/

theorem exec_selc_of_served {s : State} (hl : s.live) (hch : s.CH ≠ 0) : exec .selc s = exec (.sel s.CH) s := by
  change guarded [s.inTerminal, (s.CH == 0, .noChannelServed), ifValid s.CH s.linesUnset] _ =
    guarded [s.inTerminal, ifValid s.CH s.linesUnset] _
  rw [guarded_inTerminal_of_live hl, guarded_inTerminal_of_live hl, beq_eq_false_iff_ne.mpr hch, guarded_cons_false]

theorem exec_selc_of_none_served {s : State} (hl : s.live) (hch : s.CH = 0) :
    exec .selc s = .refused .noChannelServed := by
  change guarded [s.inTerminal, (s.CH == 0, .noChannelServed), ifValid s.CH s.linesUnset] _ = _
  rw [guarded_inTerminal_of_live hl, hch, beq_self_eq_true, guarded_cons_true]

/-- Where the sequencer serves a channel its configuration is well formed, so that the channel's number is an id. -/
theorem SequencerInv.validId_of_served {s : State} (hs : SequencerInv s) (hphase : s.PHASE = .programming ∨
    s.PHASE = .polling) (h1 : 1 ≤ s.CH) (hN : s.CH ≤ s.CFG.N) : validId s.CH := by
  have hl : s.live := by rcases hphase with h | h <;> simp [State.live, h]
  have haccepted : s.configRejected = false := by rcases hphase with h | h <;> simp [State.configRejected, h]
  obtain ⟨-, hN6⟩ := wf_channelCount (hs.wf_of_accepted hl haccepted)
  exact ⟨by omega, by omega⟩

/-- Settles O23: `SELC` and `SEL CH` share their effect, and its word stands in the blocks of a channel only. -/
theorem selcIsSelectOfTheServedChannel : Obligations.SelcIsSelectOfTheServedChannel := by
  unfold Obligations.SelcIsSelectOfTheServedChannel
  refine ⟨rfl, fun s => ⟨exec_selc_of_served, exec_selc_of_none_served, fun hs hw => ?run,
    fun c haz hl hch hg hhaz => ?drives⟩⟩
  case run =>
    rcases romWord_cases hw with ⟨hphase, h1, hN, -⟩ | ⟨hphase, h1, hN, -⟩ | hrow
    · exact hs.validId_of_served (.inl hphase) h1 hN
    · exact hs.validId_of_served (.inr hphase) h1 hN
    · simp [singleRows] at hrow
  case drives =>
    have hserved : s.CH ≠ 0 := by
      have := c.id_range
      omega
    rw [exec_selc_of_served hl hserved, hch, exec_sel hl hg, select_eq hhaz]

/-! The address word (30_encoding.md R91). -/

theorem exec_addr3_of_used {s : State} {p : Pattern} (hl : s.live) (hg : s.GPIO_DIR = .outputs)
    (hp : usedPattern s.CFG p) : exec (.addr3 p) s = .next ((addr3Effect p s).settle fun _ => .ok) :=
  guarded_of_passed
    (cs := [s.inTerminal, s.linesUnset, (p != s.CFG.IDLE_PATTERN && (s.CFG.channelOf p).isNone, .unusedPattern)])
    (by simpa only [List.forall_mem_cons, List.not_mem_nil, false_implies, implies_true, and_true, inTerminal_passed,
      linesUnset_passed, unusedPattern_eq_false] using ⟨hl, hg, hp⟩) _

theorem exec_addr3_of_unused {s : State} {p : Pattern} (hl : s.live) (hg : s.GPIO_DIR = .outputs)
    (hp : ¬ usedPattern s.CFG p) : exec (.addr3 p) s = .refused .unusedPattern := by
  have hlines : s.linesUnset = (false, .linesNotOutputs) := by rw [State.linesUnset, hg]; rfl
  have hunused := eq_true_of_ne_false (mt unusedPattern_eq_false.mp hp)
  change guarded [s.inTerminal, s.linesUnset,
    (p != s.CFG.IDLE_PATTERN && (s.CFG.channelOf p).isNone, .unusedPattern)] _ = _
  rw [guarded_inTerminal_of_live hl, hlines, guarded_cons_false, hunused, guarded_cons_true]

theorem addr3Effect_pattern {s : State} (hw : s.CFG.wf = true) (c : Chan) :
    addr3Effect (s.CFG.pattern c) s = .ok () (s.select c) := by
  rw [addr3Effect, if_neg (Cfg.pattern_ne_idle hw c), Cfg.channelOf_pattern hw]

theorem addr3Effect_idle (s : State) : addr3Effect s.CFG.IDLE_PATTERN s = .ok () s.deselect := if_pos rfl

/-- Settles O25: the patterns of a well-formed table are told apart, and the eighth is none of them. -/
theorem addressWordSelectsByPattern : Obligations.AddressWordSelectsByPattern := by
  unfold Obligations.AddressWordSelectsByPattern
  intro s haz hl hg hw
  refine ⟨fun c hhaz => ?_, ?_, fun p hidle hp => ?_⟩
  · change exec (.addr3 (s.CFG.pattern c)) s = _
    rw [exec_addr3_of_used hl hg (.inr ⟨c, rfl⟩), addr3Effect_pattern hw, select_eq hhaz, Result.ok_settle]
  · rw [exec_addr3_of_used hl hg (.inl rfl), addr3Effect_idle, Result.ok_settle]
    rfl
  · exact exec_addr3_of_unused hl hg fun hused => hused.elim hidle fun ⟨c, hc⟩ => hp c hc

/-! Exclusiveness (R147). -/

theorem lines_of_exec_sel {s t : State} {c : Chan} (h : exec (.sel c.id) s = .next t) :
    t.A = s.CFG.pattern c ∧ t.CFG = s.CFG := by
  obtain ⟨-, rfl⟩ := guarded_eq_next.mp h
  rw [selEffect, Chan.ofId_id]
  exact ⟨rfl, rfl⟩

theorem lines_of_exec_desel {s t : State} (h : exec .desel s = .next t) :
    t.A = s.CFG.IDLE_PATTERN ∧ t.CFG = s.CFG := by
  obtain ⟨-, rfl⟩ := guarded_eq_next.mp h
  exact ⟨rfl, rfl⟩

/-- Settles O26: what the lines hold after either operation is a pattern of the configuration, which tells the channels
apart. -/
theorem selectionIsExclusive : Obligations.SelectionIsExclusive := by
  unfold Obligations.SelectionIsExclusive
  intro s t c d hw
  refine ⟨fun h => ?_, fun h => ?_, fun h => ?_, fun s' t' hcfg h => ?_⟩
  · obtain ⟨hA, hcfg⟩ := lines_of_exec_sel h
    rw [hA, hcfg]
    exact ⟨fun e => (Cfg.pattern_inj hw e).symm, fun e => by rw [e]; rfl⟩
  · obtain ⟨hA, hcfg⟩ := lines_of_exec_desel h
    rw [hA, hcfg]
    exact (Cfg.pattern_ne_idle hw d).symm
  · rcases h with h | h
    · exact .inr ⟨c, (lines_of_exec_sel h).1⟩
    · exact .inl (lines_of_exec_desel h).1
  · rcases h with ⟨h, h'⟩ | ⟨h, h'⟩
    · rw [(lines_of_exec_sel h').1, (lines_of_exec_sel h).1, hcfg]
    · rw [(lines_of_exec_desel h').1, (lines_of_exec_desel h).1, hcfg]

end Sys2Proof.Machine
end

section
/-! PROOFS. The sample converted, the angles emitted, the cycles counted down (42_encoder_commands.md R166,
43_polling_loop.md R188, R189). -/

namespace Sys2Proof

/-- The words 0x70 to 0x76 are those of `CONV` with the slots 0 to 6 (30_encoding.md R98). -/
theorem ofNat_eq_convWord {n : Nat} (hn : n ≤ 6) : BitVec.ofNat 8 (0x70 + n) = microWord 0x7 (BitVec.ofNat 4 n) := by
  interval_cases n <;> rfl

namespace Machine

/-! `CONV` (R166). -/

/-- The slot of a conversion is checked first, and then the sample. -/
theorem exec_convAngle_of_live {s : State} (hl : s.live) (sel : Nat) :
    exec (.convAngle sel) s =
      guarded [(s.slot sel == 0, .noChannelServed), ((Chan.ofId (s.slot sel)).isNone, .slotOutOfRange),
          (s.CNT.isNone, .nothingToConvert)]
        ((convEffect (s.slot sel) s).settle fun _ => .ok) :=
  guarded_inTerminal_of_live hl _ _

theorem exec_convAngle_of_zero {s : State} {sel : Nat} (hl : s.live) (h : s.slot sel = 0) :
    exec (.convAngle sel) s = .refused .noChannelServed := by
  rw [exec_convAngle_of_live hl, h, beq_self_eq_true, guarded_cons_true]

theorem exec_convAngle_of_no_channel {s : State} {sel : Nat} (hl : s.live) (h : s.slot sel ≠ 0)
    (hc : Chan.ofId (s.slot sel) = none) : exec (.convAngle sel) s = .refused .slotOutOfRange := by
  rw [exec_convAngle_of_live hl, beq_eq_false_iff_ne.mpr h, guarded_cons_false, hc, Option.isNone_none,
    guarded_cons_true]

/-- Into the slot of a channel the sample is what is left to check. -/
theorem exec_convAngle_of_channel {s : State} {sel : Nat} {c : Chan} (hl : s.live) (h : (s.slot sel : Int) = c.id) :
    exec (.convAngle sel) s =
      guarded [(s.CNT.isNone, .nothingToConvert)] ((convEffect (s.slot sel) s).settle fun _ => .ok) := by
  have hzero : s.slot sel ≠ 0 := by
    have := c.id_range
    omega
  rw [exec_convAngle_of_live hl, beq_eq_false_iff_ne.mpr hzero, guarded_cons_false, Chan.ofId_eq_some.mpr h,
    Option.isNone_some, guarded_cons_false]

theorem convEffect_of_channel {s : State} {slot : Nat} {c : Chan} {n : Count32} (h : (slot : Int) = c.id)
    (hn : s.CNT = some n) :
    convEffect slot s = .ok () { s with RES := s.RES.set c (some (angleOf s.CFG n)), CNT := none } := by
  simp only [convEffect, Chan.ofId_eq_some.mpr h, hn]

/-- Settles O34: the word by its two fields, then the conditions in their order, and the conversion. -/
theorem convStoresTheAngle : Obligations.ConvStoresTheAngle := by
  unfold Obligations.ConvStoresTheAngle
  refine ⟨fun n hn => by rw [ofNat_eq_convWord hn, decode_convWord hn], fun s sel hl => ?_⟩
  dsimp only
  rw [← slot_cast]
  refine ⟨fun h => ?_, fun h => ?_, fun hvalid hcnt => ?_, fun c n hc hn => ?_⟩
  · exact exec_convAngle_of_zero hl (by exact_mod_cast h)
  · exact exec_convAngle_of_no_channel hl (by omega) (Chan.ofId_eq_none.mpr (by omega))
  · obtain ⟨c, hc⟩ := Chan.exists_ofId hvalid
    rw [exec_convAngle_of_channel hl (Chan.ofId_eq_some.mp hc), hcnt, Option.isNone_none, guarded_cons_true]
  · rw [exec_convAngle_of_channel hl hc, convEffect_of_channel hc hn, hn, Option.isNone_some, guarded_cons_false,
      guarded_nil, Result.ok_settle]

/-! `EMIT` (R188). -/

theorem exec_emit_of_live {s : State} (hl : s.live) :
    exec .emit s = guarded [(s.someUnset, .resultUnset)] ((emitEffect s).settle fun _ => .ok) :=
  guarded_inTerminal_of_live hl _ _

/-- Where every slot is set, none is passed over. -/
theorem angles_eq {s : State} {angles : List Angle} (h : s.CFG.channels.map s.RES.get = angles.map some) :
    s.angles = angles := by
  have hid : ∀ l : List Chan, l.filterMap s.RES.get = (l.map s.RES.get).filterMap id := fun l => by
    rw [List.filterMap_map, Function.id_comp]
  rw [State.angles, hid, h, List.filterMap_map]
  simp

/-- Settles O37: a slot unset refuses, and else the angles of the slots are all there is to emit. -/
theorem emitReportsAllAngles : Obligations.EmitReportsAllAngles := by
  unfold Obligations.EmitReportsAllAngles
  refine ⟨rfl, fun s hl ⟨c, hc, hunset⟩ => ?unset, fun s angles hl hset => ?set⟩
  case unset =>
    have hsome : s.someUnset = true := eq_true_of_ne_false fun h => someUnset_eq_false.mp h c hc hunset
    rw [exec_emit_of_live hl, hsome, guarded_cons_true]
  case set =>
    have hnone : s.someUnset = false := someUnset_eq_false.mpr fun c hc hunset => by
      have hmem : s.RES.get c ∈ angles.map some := hset ▸ List.mem_map_of_mem hc
      simp [hunset] at hmem
    rw [exec_emit_of_live hl, hnone, guarded_cons_false, guarded_nil, emitEffect, angles_eq hset, Result.ok_settle]
    rfl

/-! `DEC` (R189). -/

theorem exec_dec_of_no_cycle {s : State} (hl : s.live) (h : s.CYC = none ∨ s.CYC = some 0) :
    exec .dec s = .refused .noCycleLeft := by
  have hnone : s.noCycle = true := by rcases h with h | h <;> simp [State.noCycle, h]
  change guarded [s.inTerminal, (s.noCycle, .noCycleLeft)] _ = _
  rw [guarded_inTerminal_of_live hl, hnone, guarded_cons_true]

theorem exec_dec_of_cycle {s : State} {n : Nat} (hl : s.live) (h : s.CYC = some (n + 1)) :
    exec .dec s = .next { s with CYC := some n, RET := .ok } := by
  have hsome : s.noCycle = false := noCycle_eq_false.mpr ⟨n, h⟩
  change guarded [s.inTerminal, (s.noCycle, .noCycleLeft)] ((decEffect s).settle _) = _
  rw [guarded_inTerminal_of_live hl, hsome, guarded_cons_false, guarded_nil, decEffect, h, Result.ok_settle]
  rfl

/-- Settles O38: in a run the word of `DEC` stands at the end of a cycle, where the invariant has one left. -/
theorem decCountsDown : Obligations.DecCountsDown := by
  unfold Obligations.DecCountsDown
  refine ⟨rfl, fun s => ⟨exec_dec_of_no_cycle, fun n => exec_dec_of_cycle, fun hs hw => ?run⟩⟩
  case run =>
    obtain ⟨hphase, hch, hk⟩ := position_of_decWord hw
    have hl : s.live := by simp [State.live, hphase]
    have hpos := hs.position
    simp only [State.positionHolds, hphase] at hpos
    obtain ⟨-, -, -, ⟨m, hm, hm1, -⟩, -⟩ := hpos
    obtain ⟨n, rfl⟩ := Nat.exists_eq_add_of_le' hm1
    have hstep := step_of_romWord hs.alone hl (by simp [State.configRejected, hphase]) hw rfl
    rw [exec_dec_of_cycle hl hm] at hstep
    refine ⟨n, _, hm, hstep.trans (congrArg Host.Outcome.next (if_neg hl.2)), rfl, ?_⟩
    have hnext : nextPosition s.CFG.N (some n) s.PHASE s.CH s.STEP =
        if n = 0 then (.done, 0, 0) else (.polling, 1, 0) := by
      rw [hphase, hch, hk, nextPosition_polling_dec, Option.getD_some]
      cases n <;> rfl
    exact hnext

/-! The rate (44_rate_monitor.md R202 to R204). -/

/-- In lowest terms 0 has the denominator 1. -/
theorem ratio_eq_zero {r : Ratio} (hnum : r.num = 0) (hcoprime : Nat.Coprime r.num.natAbs r.den) : r = ⟨0, 1⟩ := by
  obtain ⟨num, den⟩ := r
  cases hnum
  simpa using hcoprime

/-- Settles O40: the law of quotients, under which no bytes leave the numerator 0. -/
theorem rateIsTheExactQuotient : Obligations.RateIsTheExactQuotient := by
  unfold Obligations.RateIsTheExactQuotient
  intro now before interval hpos
  have hrate : rateKbps now before interval = Ratio.of (((now : Int) - before) * 8) interval :=
    if_neg (ne_of_gt hpos)
  obtain ⟨hden, hvalue, hcoprime⟩ := Ratio.of_spec (((now : Int) - before) * 8) interval hpos
  dsimp only
  rw [hrate]
  refine ⟨hden, hvalue, hcoprime, fun hsame => ?_⟩
  have hzero : (Ratio.of (((now : Int) - before) * 8) interval).num * interval = 0 := by
    rw [hvalue, hsame, sub_self, zero_mul, zero_mul]
  exact ratio_eq_zero ((Int.mul_eq_zero.mp hzero).resolve_right (ne_of_gt hpos)) hcoprime

end Machine

end Sys2Proof
end

section
/-! PROOFS. The pseudo-operations whose transfers succeed or fail (42_encoder_commands.md R156 to R162,
30_encoding.md R108). -/

namespace Sys2Proof.Machine

/-! `READ` (R160). -/

/-- On an open, admitted link `READ` is performed, and needs no lines (R162). -/
theorem exec_readCount_of_ready {s : State} (hl : s.live) (ho : s.LINK.OPENED = true) (ha : s.admitted = true)
    (c : Int) : exec (.readCount c) s = .next ((readEffect c s).settle .count) :=
  guarded_of_passed (cs := [s.inTerminal, ifValid c s.linkClosed, ifValid c s.notAdmitted]) (by simp [hl, ho, ha]) _

/-- The command of a read on a channel checks its lines and its configuration, in whatever order they are asked. -/
theorem readHazard_eq {s : State} {c : Chan} {haz : Bool} (hw : s.CFG.wf = true)
    (hhaz : haz = true ↔ s.HAZ = true ∨ s.A ≠ s.CFG.SEL_TABLE.get c ∨ s.ENC.get c = .uninitialized) :
    haz = ((s.HAZ || (s.A != s.CFG.pattern c)) || s.commandBreach .readPos) := by
  rw [Bool.or_assoc]
  refine hazard_eq_or hhaz ?_
  change _ ↔ s.A ≠ s.CFG.pattern c ∨ _
  rw [Bool.or_eq_true, bne_iff_ne]
  by_cases hA : s.A = s.CFG.pattern c
  · simp [State.commandBreach, hA, Cfg.channelOf_pattern hw]
  · simp [hA]

/-- The state after the command of a read. -/
def State.readSent (s : State) (rx : List Byte) (e : Environment) (haz : Bool) : State :=
  { s with
    HAZ := haz, TXBUF := none, RXBUF := none, SENT := s.SENT + 1, RCVD := s.RCVD + 1,
    TRACE := s.TRACE ++ [.xfr s.A (some [s.CFG.CMD_READ_POS]) (some rx)], ENV := e }

/-- The fetch of a read follows its command, so that only a channel not selected breaks its duty, which the check of
the id has noted. -/
theorem readSent_fetchBreach {s : State} {c : Chan} {rx : List Byte} {e : Environment} {haz : Bool}
    (hhaz : s.A ≠ s.CFG.pattern c → haz = true) : haz = (haz || (s.readSent rx e haz).fetchBreach) := by
  by_cases hA : s.A = s.CFG.pattern c
  · have hjust : (s.readSent rx e haz).readJustSent = true := by simp [State.readJustSent, State.readSent]
    rw [fetchBreach_eq_false (s := s.readSent rx e haz) hA hjust, Bool.or_false]
  · rw [hhaz hA, Bool.true_or]

section

variable {s : State} {c : Chan} {r1 rx : List Byte} {e1 e2 e : Environment} {haz : Bool}

theorem readEffect_of_command (hw : s.CFG.wf = true) (ha : s.admitted = true) (h1 : s.ENV.moves 1 r1 e1)
    (hlb : s.loopback = true → r1 = [s.CFG.CMD_READ_POS])
    (hhaz : haz = true ↔ s.HAZ = true ∨ s.A ≠ s.CFG.SEL_TABLE.get c ∨ s.ENC.get c = .uninitialized) :
    readEffect c.id s = xfetchEffect (s.readSent r1 e1 haz) := by
  have hcommand := xcmdEffect_of_moves (s := s.noteBreach (s.A != s.CFG.pattern c)) (k := .readPos) ha h1 hlb
    (readHazard_eq hw hhaz)
  simp only [readEffect, Chan.ofId_id, hcommand, Result.ok_andThen]
  rfl

/-- A read whose two transfers succeed. -/
theorem readEffect_of_moves (hw : s.CFG.wf = true) (ha : s.admitted = true) (h1 : s.ENV.moves 1 r1 e1)
    (h2 : e1.moves 4 rx e2)
    (hlb : s.loopback = true → r1 = [s.CFG.CMD_READ_POS] ∧ rx = s.CFG.fetchFrame)
    (hhaz : haz = true ↔ s.HAZ = true ∨ s.A ≠ s.CFG.SEL_TABLE.get c ∨ s.ENC.get c = .uninitialized) :
    readEffect c.id s =
      .ok (be32 rx) { s with
        TXBUF := none, RXBUF := none, CNT := some (be32 rx), HAZ := haz, SENT := s.SENT + 5, RCVD := s.RCVD + 5,
        TRACE := s.TRACE ++
          [.xfr s.A (some [s.CFG.CMD_READ_POS]) (some r1), .xfr s.A (some s.CFG.fetchFrame) (some rx)],
        ENV := e2 } := by
  rw [readEffect_of_command hw ha h1 (fun h => (hlb h).1) hhaz,
    xfetchEffect_of_moves (s := s.readSent r1 e1 haz) ha h2 (fun h => (hlb h).2)
      (readSent_fetchBreach fun hA => hhaz.mpr (.inr (.inl hA)))]
  simp only [State.readSent, List.append_assoc, List.cons_append, List.nil_append]

/-- A read whose command fails. -/
theorem readEffect_of_command_failure {a : TransferAnswer} (hw : s.CFG.wf = true) (ht : s.ENV.transfer = (a, e))
    (ha : a ≠ .done)
    (hhaz : haz = true ↔ s.HAZ = true ∨ s.A ≠ s.CFG.SEL_TABLE.get c ∨ s.ENC.get c = .uninitialized) :
    readEffect c.id s =
      .error .ioError (transferError a 1) { s with HAZ := haz, TXBUF := none, RXBUF := none, ENV := e } := by
  have hcommand := xcmdEffect_of_failure (s := s.noteBreach (s.A != s.CFG.pattern c)) (k := .readPos) ht ha
  simp only [readEffect, Chan.ofId_id, hcommand, Result.error_andThen]
  rw [readHazard_eq hw hhaz]
  rfl

end

/-- A fetch whose transfer fails. -/
theorem xfetchEffect_of_failure {s : State} {a : TransferAnswer} {e : Environment} (ht : s.ENV.transfer = (a, e))
    (ha : a ≠ .done) :
    xfetchEffect s =
      .error .ioError (transferError a 4)
        { s with HAZ := s.HAZ || s.fetchBreach, TXBUF := none, RXBUF := none, ENV := e } := by
  have hfetch := exchange_of_failure (s := s.noteBreach s.fetchBreach) (tx := List.replicate 4 s.CFG.FILL) ht ha
  rw [xfetchEffect, memRead, State.noteBreach_CFG, hfetch, Result.error_andThen]
  rfl

/-- Settles O33: the command and the fetch, in the caller's bracket. -/
theorem readFetchesThePosition : Obligations.ReadFetchesThePosition := by
  unfold Obligations.ReadFetchesThePosition
  intro s c r1 b0 b1 b2 b3 e1 e2 haz hl hw ho ha h1 h2 hlb hhaz
  rw [exec_readCount_of_ready hl ho ha, readEffect_of_moves hw ha h1 h2 hlb hhaz, Result.ok_settle]
  rfl

/-! `PROGRAM` (R156). -/

/-- With the link and the lines ready `PROGRAM` is performed. -/
theorem exec_program_of_ready {s : State} (hl : s.live) (hg : s.GPIO_DIR = .outputs) (ho : s.LINK.OPENED = true)
    (ha : s.admitted = true) (c : Int) : exec (.program c) s = .next ((programEffect c s).settle fun _ => .ok) :=
  guarded_of_passed
    (cs := [s.inTerminal, ifValid c s.linesUnset, ifValid c s.linkClosed, ifValid c s.notAdmitted])
    (by simp [hl, hg, ho, ha]) _

theorem programEffect_of_id (s : State) (c : Chan) :
    programEffect c.id s =
      (programBracket c.id .selCtrl s).andThen fun _ s1 =>
      (programBracket c.id .setQuad s1).andThen fun _ s2 =>
      programBracket c.id .setSec s2 := by
  simp only [programEffect, Chan.ofId_id]

/-- A bracket adds its command to what was sent at the channel. -/
theorem sentAt_bracketState (s : State) (c : Chan) (k : Cmd) (rx : List Byte) (e : Environment) (haz : Bool) :
    sentAt (s.CFG.pattern c) (bracketState s c k rx e haz).TRACE =
      sentAt (s.CFG.pattern c) s.TRACE ++ [some [s.CFG.cmdByte k]] := by
  simp [bracketState, sentAt]

section

variable {s : State} {c : Chan} {haz : Bool}

/-- The first bracket breaks a duty only where another channel was still selected. -/
theorem hazard_first_bracket (hw : s.CFG.wf = true) (hhaz : haz = true ↔ s.HAZ = true ∨ s.holdsOther c) :
    haz = (s.HAZ || s.otherSelected c || (s.select c).commandBreach .selCtrl) := by
  rw [commandBreach_false_of_last hw trivial, Bool.or_false]
  exact hazard_eq_or hhaz otherSelected_iff

/-- A bracket that follows its predecessor breaks no duty. -/
theorem hazard_next_bracket {j k : Cmd} {rx : List Byte} {e : Environment} (hw : s.CFG.wf = true)
    (hjk : (j = .selCtrl ∧ k = .setQuad) ∨ (j = .setQuad ∧ k = .setSec)) :
    haz = ((bracketState s c j rx e haz).HAZ || (bracketState s c j rx e haz).otherSelected c ||
      ((bracketState s c j rx e haz).select c).commandBreach k) := by
  have hlast : (sentAt (s.CFG.pattern c) (bracketState s c j rx e haz).TRACE).getLast? =
      some (some [s.CFG.cmdByte j]) := by
    rw [sentAt_bracketState, List.getLast?_concat]
  have hbreach : ((bracketState s c j rx e haz).select c).commandBreach k = false := by
    rcases hjk with ⟨rfl, rfl⟩ | ⟨rfl, rfl⟩ <;> exact commandBreach_false_of_last hw hlast
  rw [otherSelected_idle (s := bracketState s c j rx e haz) hw rfl, hbreach, Bool.or_false, Bool.or_false]
  rfl

variable {r1 r2 r3 : List Byte} {e1 e2 e3 : Environment}

/-- The state after the three brackets of `PROGRAM`. -/
def programmedState (s : State) (c : Chan) (r1 r2 r3 : List Byte) (e : Environment) (haz : Bool) : State :=
  { s with
    A := s.CFG.IDLE_PATTERN, TXBUF := none, RXBUF := none, ENC := s.ENC.set c .configured, HAZ := haz,
    SENT := s.SENT + 3, RCVD := s.RCVD + 3,
    TRACE := s.TRACE ++
      [.drv (s.CFG.pattern c), .xfr (s.CFG.pattern c) (some [s.CFG.CMD_SEL_CTRL]) (some r1), .drv s.CFG.IDLE_PATTERN,
       .drv (s.CFG.pattern c), .xfr (s.CFG.pattern c) (some [s.CFG.CMD_SET_QUAD]) (some r2), .drv s.CFG.IDLE_PATTERN,
       .drv (s.CFG.pattern c), .xfr (s.CFG.pattern c) (some [s.CFG.CMD_SET_SEC]) (some r3), .drv s.CFG.IDLE_PATTERN],
    ENV := e }

theorem first_bracket_ok (hw : s.CFG.wf = true) (ha : s.admitted = true) (h1 : s.ENV.moves 1 r1 e1)
    (hlb : s.loopback = true → r1 = [s.CFG.CMD_SEL_CTRL]) (hhaz : haz = true ↔ s.HAZ = true ∨ s.holdsOther c) :
    programBracket c.id .selCtrl s = .ok () (bracketState s c .selCtrl r1 e1 haz) :=
  bracket_ok ha h1 hlb (hazard_first_bracket hw hhaz) (by decide)

theorem second_bracket_ok (hw : s.CFG.wf = true) (ha : s.admitted = true) (h2 : e1.moves 1 r2 e2)
    (hlb : s.loopback = true → r2 = [s.CFG.CMD_SET_QUAD]) :
    programBracket c.id .setQuad (bracketState s c .selCtrl r1 e1 haz) =
      .ok () (bracketState (bracketState s c .selCtrl r1 e1 haz) c .setQuad r2 e2 haz) :=
  bracket_ok (s := bracketState s c .selCtrl r1 e1 haz) ha h2 hlb (hazard_next_bracket hw (.inl ⟨rfl, rfl⟩))
    (by decide)

/-- The third bracket completes the sequence, which configures the channel. -/
theorem third_bracket_ok (hw : s.CFG.wf = true) (ha : s.admitted = true) (h3 : e2.moves 1 r3 e3)
    (hlb : s.loopback = true → r3 = [s.CFG.CMD_SET_SEC]) :
    programBracket c.id .setSec (bracketState (bracketState s c .selCtrl r1 e1 haz) c .setQuad r2 e2 haz) =
      .ok () (programmedState s c r1 r2 r3 e3 haz) := by
  have hsent : ∀ t : State, t = bracketState (bracketState s c .selCtrl r1 e1 haz) c .setQuad r2 e2 haz →
      (sentAt (s.CFG.pattern c) (t.select c).TRACE).reverse.take 2 =
        [some [s.CFG.CMD_SET_QUAD], some [s.CFG.CMD_SEL_CTRL]] := by
    rintro t rfl
    simp [bracketState, sentAt, Cfg.cmdByte]
  have henc : ∀ d, (s.ENC.set c .configured).get d = .configured ↔ s.ENC.get d = .configured ∨
      s.CFG.pattern c = s.CFG.pattern d := by
    intro d
    by_cases hd : d = c
    · subst hd
      simp
    · rw [Six.get_set_other _ _ hd]
      exact ⟨.inl, fun h => h.elim id fun hp => absurd (Cfg.pattern_inj hw hp).symm hd⟩
  rw [bracket3_ok (s := bracketState (bracketState s c .selCtrl r1 e1 haz) c .setQuad r2 e2 haz)
    (enc := s.ENC.set c .configured) ha hw h3 hlb
    (hazard_next_bracket (s := bracketState s c .selCtrl r1 e1 haz) hw (.inr ⟨rfl, rfl⟩))
    fun d => (henc d).trans (or_congr_right ⟨fun h => ⟨h, hsent _ rfl⟩, And.left⟩)]
  simp only [bracketState, programmedState, List.append_assoc, List.cons_append, List.nil_append]
  rfl

/-- `PROGRAM` whose three transfers succeed. -/
theorem programEffect_of_moves (hw : s.CFG.wf = true) (ha : s.admitted = true) (h1 : s.ENV.moves 1 r1 e1)
    (h2 : e1.moves 1 r2 e2) (h3 : e2.moves 1 r3 e3)
    (hlb : s.loopback = true → r1 = [s.CFG.CMD_SEL_CTRL] ∧ r2 = [s.CFG.CMD_SET_QUAD] ∧ r3 = [s.CFG.CMD_SET_SEC])
    (hhaz : haz = true ↔ s.HAZ = true ∨ s.holdsOther c) :
    programEffect c.id s = .ok () (programmedState s c r1 r2 r3 e3 haz) := by
  rw [programEffect_of_id, first_bracket_ok hw ha h1 (fun h => (hlb h).1) hhaz, Result.ok_andThen,
    second_bracket_ok hw ha h2 (fun h => (hlb h).2.1), Result.ok_andThen,
    third_bracket_ok hw ha h3 (fun h => (hlb h).2.2)]

end

/-- Settles O31: the three brackets, one after the other. -/
theorem programWritesThreeRegisters : Obligations.ProgramWritesThreeRegisters := by
  unfold Obligations.ProgramWritesThreeRegisters
  intro s c r1 r2 r3 e1 e2 e3 haz hl hw hg ho ha h1 h2 h3 hlb hhaz
  rw [exec_program_of_ready hl hg ho ha, programEffect_of_moves hw ha h1 h2 h3 hlb hhaz, Result.ok_settle]
  rfl

/-! `PROGCH` and `POLLCH` (30_encoding.md R108). -/

theorem exec_progch_of_ready {s : State} (hl : s.live) (hg : s.GPIO_DIR = .outputs) (ho : s.LINK.OPENED = true)
    (ha : s.admitted = true) (c : Int) : exec (.progch c) s = .next ((progchEffect c s).settle fun _ => .ok) :=
  guarded_of_passed (cs := [s.inTerminal, s.linesUnset, ifValid c s.linkClosed, ifValid c s.notAdmitted])
    (by simp [hl, hg, ho, ha]) _

theorem exec_pollch_of_ready {s : State} (hl : s.live) (hg : s.GPIO_DIR = .outputs) (ho : s.LINK.OPENED = true)
    (ha : s.admitted = true) (c : Int) : exec (.pollch c) s = .next ((pollchEffect c s).settle fun _ => .ok) :=
  guarded_of_passed
    (cs := [s.inTerminal, ifValid c s.linesUnset, ifValid c s.linkClosed, ifValid c s.notAdmitted])
    (by simp [hl, hg, ho, ha]) _

theorem selEffect_of_id (s : State) (c : Chan) : selEffect c.id s = .ok () (s.select c) := by
  simp only [selEffect, Chan.ofId_id]

/-- Settles O41: from the idle pattern the select and the three brackets break no duty. -/
theorem progchProgramsOneChannel : Obligations.ProgchProgramsOneChannel := by
  unfold Obligations.ProgchProgramsOneChannel
  intro s c r1 r2 r3 e1 e2 e3 hl hw hg ho ha h1 h2 h3 hlb
  have hfree : s.deselect.otherSelected c = false := otherSelected_idle (s := s.deselect) hw rfl
  have hnone : ¬ (s.deselect.select c).holdsOther c := by
    rw [← otherSelected_iff, Bool.not_eq_true]
    exact otherSelected_eq_false_of_selected (s := s.deselect.select c) hw rfl
  have hhaz : s.HAZ = true ↔ (s.deselect.select c).HAZ = true ∨ (s.deselect.select c).holdsOther c := by
    simp [hfree, hnone]
  rw [exec_progch_of_ready hl hg ho ha, progchEffect, deselEffect, Result.ok_andThen, selEffect_of_id,
    Result.ok_andThen, programEffect_of_moves (s := s.deselect.select c) hw ha h1 h2 h3 hlb hhaz, Result.ok_andThen,
    deselEffect, Result.ok_settle]
  simp only [programmedState, State.deselect, State.drive, State.select, State.noteBreach, List.append_assoc,
    List.cons_append, List.nil_append]
  rfl

/-- Settles O42: the read in the bracket of the select, then the conversion of its sample. -/
theorem pollchReadsOneChannel : Obligations.PollchReadsOneChannel := by
  unfold Obligations.PollchReadsOneChannel
  intro s c r1 b0 b1 b2 b3 e1 e2 haz hl hw hg ho ha h1 h2 hlb hhaz
  have hslot : (c.id.toNat : Int) = c.id := by
    have := c.id_range
    omega
  have hread : haz = true ↔ (s.select c).HAZ = true ∨ (s.select c).A ≠ (s.select c).CFG.SEL_TABLE.get c ∨
      (s.select c).ENC.get c = .uninitialized := by
    have hA : s.CFG.pattern c = s.CFG.SEL_TABLE.get c := rfl
    simp [hA, hhaz, otherSelected_iff, or_assoc]
  rw [exec_pollch_of_ready hl hg ho ha, pollchEffect, selEffect_of_id, Result.ok_andThen,
    readEffect_of_moves (s := s.select c) hw ha h1 h2 hlb hread, Result.ok_andThen, convEffect_of_channel hslot rfl,
    Result.ok_andThen, deselEffect, Result.ok_settle]
  simp only [State.deselect, State.drive, State.select, State.noteBreach, List.append_assoc, List.cons_append,
    List.nil_append]
  rfl

end Sys2Proof.Machine
end

section
/-! PROOFS. Each pseudo-operation is its expansion, ended at the first error or refusal (42_encoder_commands.md R156,
R160, 30_encoding.md R108, 60_exceptions.md R225). -/

namespace Sys2Proof.Machine

/-! Sequences, result by result. -/

theorem Result.follow_nil {α : Type} (r : Result α) (ret : α → Returned) : r.follow ret [] = .next (r.settle ret) := by
  cases r <;> rfl

/-- The rest that is run after a value is the next operation of the effect. -/
theorem Result.follow_eq_andThen {α β : Type} {r : Result α} {f : α → State → Result β} {ret : α → Returned}
    {ret' : β → Returned} {rest rest' : List Instr}
    (h : ∀ v t, r = .ok v t → inSequence rest { t with RET := ret v } = (f v t).follow ret' rest') :
    r.follow ret rest = (r.andThen f).follow ret' rest' := by
  cases r with
  | ok v t => exact h v t rfl
  | error k i t => rfl

/-! What the parts of an expansion need. -/

/-- The state in which an operation of the encoder protocol that drives the lines is performed. -/
structure State.Ready (s : State) : Prop where
  live : s.live
  outputs : s.GPIO_DIR = .outputs
  link : s.linkReady

theorem live_of_within {k : Kinds} {s t : State} (hw : Within k s t) (hl : s.live) : t.live := by
  rw [State.live, hw.position.1]
  exact hl

theorem linkReady_of_within {k : Kinds} {s t : State} (hw : Within k s t) (h : s.linkReady) : t.linkReady := by
  obtain ⟨-, -, hlink, -⟩ := hw.constant
  obtain ⟨ho, ha⟩ := h
  exact ⟨by rw [hlink, ho], by rw [← ha, State.admitted, State.loopback, State.txMulti, State.rxMulti, hlink]; rfl⟩

/-- All kinds of effect. -/
def Kinds.any : Kinds := ⟨true, true, true, true, true, true, true⟩

/-- The parts of an expansion leave what the next one needs (10_state.md R22, R25, R40). -/
theorem State.Ready.of_leaves {α : Type} {s t : State} {r : Result α} {v : α} (h : s.Ready)
    (hr : r.Leaves (Within Kinds.any s)) (ht : r = .ok v t) : t.Ready := by
  rw [ht] at hr
  obtain ⟨-, -, -, hgpio, -⟩ := hr.constant
  exact ⟨live_of_within hr h.live, hgpio.trans h.outputs, linkReady_of_within hr h.link⟩

theorem within_programBracket (c : Int) (k : Cmd) (s : State) :
    (programBracket c k s).Leaves (Within Kinds.any s) :=
  Within.andThen (within_selEffect _ rfl rfl c s) fun _ t =>
    Within.andThen (within_xcmdEffect _ rfl rfl rfl k (fun _ => rfl) t) fun _ u => within_deselEffect _ rfl u

theorem CNT_of_xfetchEffect {s t : State} {v : Count32} (h : xfetchEffect s = .ok v t) : t.CNT = some v := by
  unfold xfetchEffect at h
  cases hread : memRead 4 (s.noteBreach s.fetchBreach) with
  | ok rx u =>
    rw [hread] at h
    cases h
    rfl
  | error k i u =>
    rw [hread] at h
    cases h

theorem CNT_of_readEffect {s t : State} {c : Chan} {v : Count32} (h : readEffect c.id s = .ok v t) :
    t.CNT = some v := by
  simp only [readEffect, Chan.ofId_id] at h
  cases hcommand : xcmdEffect .readPos (s.noteBreach (s.A != s.CFG.pattern c)) with
  | ok _ u =>
    rw [hcommand] at h
    exact CNT_of_xfetchEffect h
  | error k i u =>
    rw [hcommand] at h
    cases h

/-! The parts, each followed by the rest. -/

section

variable {s : State} (rest : List Instr)

theorem inSequence_sel (hl : s.live) (hg : s.GPIO_DIR = .outputs) (c : Int) :
    inSequence (.sel c :: rest) s = (selEffect c s).follow (fun _ => .ok) rest :=
  inSequence_next (guarded_of_passed (cs := [s.inTerminal, ifValid c s.linesUnset]) (by simp [hl, hg]) _)
    fun _ => fine_ok

theorem inSequence_sel_of_not_validId {c : Int} (hl : s.live) (hc : ¬ validId c) :
    inSequence (.sel c :: rest) s = .next (s.takeError .configurationError (.invalidChannel c)) := by
  rw [inSequence_next (r := selEffect c s) (ret := fun _ => .ok)
    (by rw [exec_sel_of_not_validId hl hc, selEffect_of_not_validId hc, Result.error_settle]) fun _ => fine_ok,
    selEffect_of_not_validId hc, Result.error_follow]

theorem inSequence_desel (hl : s.live) (hg : s.GPIO_DIR = .outputs) :
    inSequence (.desel :: rest) s = (deselEffect s).follow (fun _ => .ok) rest :=
  inSequence_next (guarded_of_passed (cs := [s.inTerminal, s.linesUnset]) (by simp [hl, hg]) _) fun _ => fine_ok

theorem inSequence_xcmd (hl : s.live) (h : s.linkReady) (k : Cmd) :
    inSequence (.xcmd k :: rest) s = (xcmdEffect k s).follow (fun _ => .ok) rest :=
  inSequence_next (guarded_of_passed (cs := [s.inTerminal, s.linkClosed, s.notAdmitted]) (by simp [hl, h.1, h.2]) _)
    fun _ => fine_ok

theorem inSequence_xfetch (hl : s.live) (h : s.linkReady) :
    inSequence (.xfetch :: rest) s = (xfetchEffect s).follow .count rest :=
  inSequence_next (exec_xfetch hl h.1 h.2) fine_count

theorem inSequence_readCount (hl : s.live) (h : s.linkReady) (c : Int) :
    inSequence (.readCount c :: rest) s = (readEffect c s).follow .count rest :=
  inSequence_next (exec_readCount_of_ready hl h.1 h.2 c) fine_count

theorem inSequence_program (h : s.Ready) (c : Int) :
    inSequence (.program c :: rest) s = (programEffect c s).follow (fun _ => .ok) rest :=
  inSequence_next (exec_program_of_ready h.live h.outputs h.link.1 h.link.2 c) fun _ => fine_ok

/-- A conversion into the slot of a channel takes the sample that is there. -/
theorem inSequence_convAngle {c : Chan} (hl : s.live) (hn : s.CNT ≠ none) :
    inSequence (.convAngle c.id.toNat :: rest) s = (convEffect c.id.toNat s).follow (fun _ => .ok) rest := by
  have hrange := c.id_range
  have hslot : s.slot c.id.toNat = c.id.toNat := if_neg (by omega)
  refine inSequence_next ?_ fun _ => fine_ok
  rw [exec_convAngle_of_channel (c := c) hl (by omega), hslot]
  exact guarded_of_passed (by simpa [Option.isSome_iff_ne_none] using hn) _

/-- A bracket of `PROGRAM` is its three operations. -/
theorem inSequence_bracket (h : s.Ready) (c : Int) (k : Cmd) :
    inSequence (.sel c :: .xcmd k :: .desel :: rest) s = (programBracket c k s).follow (fun _ => .ok) rest := by
  rw [inSequence_sel _ h.live h.outputs, programBracket]
  refine Result.follow_eq_andThen fun _ t ht => ?_
  have h := h.of_leaves (within_selEffect _ rfl rfl c s) ht
  rw [inSequence_withRet rfl, inSequence_xcmd _ h.live h.link]
  refine Result.follow_eq_andThen fun _ u hu => ?_
  have h := h.of_leaves (within_xcmdEffect _ rfl rfl rfl k (fun _ => rfl) t) hu
  rw [inSequence_withRet rfl, inSequence_desel _ h.live h.outputs]

end

/-! Refusals: the condition that refuses a pseudo-operation refuses the part that is the first to need it. -/

theorem guarded_inTerminal_of_not_live {s : State} (hl : ¬ s.live) (cs : List (Bool × Refusal)) (t : State) :
    guarded (s.inTerminal :: cs) t = .refused .terminalPhase := by
  rw [live_iff_not_terminal, Bool.not_eq_false] at hl
  rw [State.inTerminal, hl, guarded_cons_true]

/-- The conditions of the link refuse every operation of the encoder protocol, for the one reason. -/
def State.linkRefuses (s : State) (r : Refusal) : Prop :=
  ∀ t, guarded [s.linkClosed, s.notAdmitted] t = .refused r

theorem linkReady_or_refuses (s : State) : s.linkReady ∨ ∃ r, s.linkRefuses r := by
  cases ho : s.LINK.OPENED with
  | false => exact .inr ⟨.linkNotOpen, fun t => by simp [State.linkClosed, ho]⟩
  | true =>
    cases ha : s.admitted with
    | false => exact .inr ⟨.linkNotAdmitted, fun t => by simp [State.linkClosed, State.notAdmitted, ho, ha]⟩
    | true => exact .inl ⟨ho, ha⟩

section

variable {s : State} {c : Int} {r : Refusal} (hl : s.live) (h : s.linkRefuses r)

theorem guarded_linesUnset_of_outputs (hg : s.GPIO_DIR = .outputs) (cs : List (Bool × Refusal)) (t : State) :
    guarded (s.linesUnset :: cs) t = guarded cs t := by
  rw [State.linesUnset, hg]
  rfl

include hl

/-- The conditions of `PROGRAM` and `POLLCH` on lines that are not outputs. -/
theorem guarded_driven_of_unconfigured (hc : validId c) (hg : s.GPIO_DIR = .unconfigured) (t : State) :
    guarded [s.inTerminal, ifValid c s.linesUnset, ifValid c s.linkClosed, ifValid c s.notAdmitted] t =
      .refused .linesNotOutputs := by
  rw [guarded_inTerminal_of_live hl, ifValid_of_validId hc, guarded_linesUnset_of_unconfigured hg]

theorem exec_program_of_unconfigured (hc : validId c) (hg : s.GPIO_DIR = .unconfigured) :
    exec (.program c) s = .refused .linesNotOutputs :=
  guarded_driven_of_unconfigured hl hc hg _

theorem exec_pollch_of_unconfigured (hc : validId c) (hg : s.GPIO_DIR = .unconfigured) :
    exec (.pollch c) s = .refused .linesNotOutputs :=
  guarded_driven_of_unconfigured hl hc hg _

theorem exec_progch_of_unconfigured (hg : s.GPIO_DIR = .unconfigured) :
    exec (.progch c) s = .refused .linesNotOutputs := by
  change guarded [s.inTerminal, s.linesUnset, ifValid c s.linkClosed, ifValid c s.notAdmitted] _ = _
  rw [guarded_inTerminal_of_live hl, guarded_linesUnset_of_unconfigured hg]

include h

theorem exec_xcmd_of_refuses (k : Cmd) : exec (.xcmd k) s = .refused r :=
  (guarded_inTerminal_of_live hl _ _).trans (h _)

theorem exec_readCount_of_refuses (hc : validId c) : exec (.readCount c) s = .refused r := by
  change guarded [s.inTerminal, ifValid c s.linkClosed, ifValid c s.notAdmitted] _ = _
  rw [guarded_inTerminal_of_live hl, ifValid_of_validId hc, ifValid_of_validId hc, h]

/-- The conditions of `PROGRAM` and `POLLCH` on output lines, where the link refuses. -/
theorem guarded_driven_of_refuses (hc : validId c) (hg : s.GPIO_DIR = .outputs) (t : State) :
    guarded [s.inTerminal, ifValid c s.linesUnset, ifValid c s.linkClosed, ifValid c s.notAdmitted] t =
      .refused r := by
  rw [guarded_inTerminal_of_live hl, ifValid_of_validId hc, ifValid_of_validId hc, ifValid_of_validId hc,
    guarded_linesUnset_of_outputs hg, h]

theorem exec_program_of_refuses (hc : validId c) (hg : s.GPIO_DIR = .outputs) : exec (.program c) s = .refused r :=
  guarded_driven_of_refuses hl h hc hg _

theorem exec_pollch_of_refuses (hc : validId c) (hg : s.GPIO_DIR = .outputs) : exec (.pollch c) s = .refused r :=
  guarded_driven_of_refuses hl h hc hg _

theorem exec_progch_of_refuses (hc : validId c) (hg : s.GPIO_DIR = .outputs) : exec (.progch c) s = .refused r := by
  change guarded [s.inTerminal, s.linesUnset, ifValid c s.linkClosed, ifValid c s.notAdmitted] _ = _
  rw [guarded_inTerminal_of_live hl, ifValid_of_validId hc, ifValid_of_validId hc, guarded_linesUnset_of_outputs hg, h]

end

/-! An invalid id (60_exceptions.md R221). -/

theorem exec_pollch_of_not_validId {s : State} {c : Int} (hl : s.live) (hc : ¬ validId c) :
    exec (.pollch c) s = .next (s.takeError .configurationError (.invalidChannel c)) :=
  guarded_error_of_not_validId hl hc [s.linesUnset, s.linkClosed, s.notAdmitted]
    (by rw [pollchEffect, selEffect_of_not_validId hc, Result.error_andThen]) _

/-- The `DESEL` of `PROGCH` comes before the id check of its `SEL`. -/
theorem exec_progch_of_not_validId {s : State} {c : Int} (hl : s.live) (hc : ¬ validId c)
    (hg : s.GPIO_DIR = .outputs) :
    exec (.progch c) s = .next (s.deselect.takeError .configurationError (.invalidChannel c)) := by
  change guarded (s.inTerminal :: s.linesUnset :: [s.linkClosed, s.notAdmitted].map (ifValid c)) _ = _
  rw [guarded_inTerminal_of_live hl, guarded_linesUnset_of_outputs hg, guarded_ifValid_of_not_validId hc, progchEffect,
    deselEffect, Result.ok_andThen, selEffect_of_not_validId hc, Result.error_andThen, Result.error_settle]

/-! The expansions. -/

/-- The operations of `PROGRAM` (R156). -/
def programExpansion (c : Int) : List Instr :=
  [.sel c, .xcmd .selCtrl, .desel, .sel c, .xcmd .setQuad, .desel, .sel c, .xcmd .setSec, .desel]

theorem inSequence_programExpansion {s : State} (h : s.Ready) (c : Chan) :
    inSequence (programExpansion c.id) s = .next ((programEffect c.id s).settle fun _ => .ok) := by
  rw [programExpansion, inSequence_bracket _ h, programEffect_of_id, ← Result.follow_nil]
  refine Result.follow_eq_andThen fun _ t ht => ?_
  have h := h.of_leaves (within_programBracket _ _ s) ht
  rw [inSequence_withRet rfl, inSequence_bracket _ h]
  refine Result.follow_eq_andThen fun _ u hu => ?_
  have h := h.of_leaves (within_programBracket _ _ t) hu
  rw [inSequence_withRet rfl, inSequence_bracket _ h]

theorem exec_program_eq_inSequence (s : State) (c : Int) :
    exec (.program c) s = inSequence (programExpansion c) s := by
  by_cases hl : s.live
  case neg =>
    exact (guarded_inTerminal_of_not_live hl _ _).trans
      (inSequence_refused (i := .sel c) (guarded_inTerminal_of_not_live hl _ _)).symm
  by_cases hc : validId c
  case neg => rw [exec_program_of_not_validId hl hc, programExpansion, inSequence_sel_of_not_validId _ hl hc]
  obtain ⟨ch, hch⟩ := Chan.exists_ofId hc
  obtain rfl := Chan.ofId_eq_some.mp hch
  cases hg : s.GPIO_DIR with
  | unconfigured =>
    rw [exec_program_of_unconfigured hl hc hg, programExpansion,
      inSequence_refused (exec_sel_of_unconfigured hl hc hg)]
  | outputs =>
    rcases linkReady_or_refuses s with hlink | ⟨r, hr⟩
    · rw [exec_program_of_ready hl hg hlink.1 hlink.2, inSequence_programExpansion ⟨hl, hg, hlink⟩]
    · rw [exec_program_of_refuses hl hr hc hg, programExpansion, inSequence_sel _ hl hg, selEffect_of_id,
        Result.ok_follow, inSequence_withRet rfl,
        inSequence_refused (exec_xcmd_of_refuses (s := s.select ch) hl hr _)]

theorem exec_progch_eq_inSequence (s : State) (c : Int) :
    exec (.progch c) s = inSequence [.desel, .sel c, .program c, .desel] s := by
  by_cases hl : s.live
  case neg =>
    exact (guarded_inTerminal_of_not_live hl _ _).trans
      (inSequence_refused (i := .desel) (guarded_inTerminal_of_not_live hl _ _)).symm
  cases hg : s.GPIO_DIR with
  | unconfigured =>
    rw [exec_progch_of_unconfigured hl hg, inSequence_refused (exec_desel_of_unconfigured hl hg)]
  | outputs =>
    rw [inSequence_desel _ hl hg, deselEffect, Result.ok_follow, inSequence_withRet rfl]
    by_cases hc : validId c
    case neg =>
      rw [exec_progch_of_not_validId hl hc hg, inSequence_sel_of_not_validId (s := s.deselect) _ hl hc]
    obtain ⟨ch, hch⟩ := Chan.exists_ofId hc
    obtain rfl := Chan.ofId_eq_some.mp hch
    rw [inSequence_sel (s := s.deselect) _ hl hg, selEffect_of_id, Result.ok_follow, inSequence_withRet rfl]
    rcases linkReady_or_refuses s with hlink | ⟨r, hr⟩
    · rw [exec_progch_of_ready hl hg hlink.1 hlink.2, progchEffect, deselEffect, Result.ok_andThen, selEffect_of_id,
        Result.ok_andThen, inSequence_program (s := s.deselect.select ch) _ ⟨hl, hg, hlink⟩, ← Result.follow_nil]
      refine (Result.follow_eq_andThen fun _ t ht => ?_).symm
      have h := State.Ready.of_leaves (s := s.deselect.select ch) ⟨hl, hg, hlink⟩
        (within_programEffect _ rfl rfl rfl rfl rfl _ _) ht
      rw [inSequence_withRet rfl, inSequence_desel _ h.live h.outputs]
    · rw [exec_progch_of_refuses hl hr hc hg,
        inSequence_refused (exec_program_of_refuses (s := s.deselect.select ch) hl hr hc hg)]

theorem exec_pollch_eq_inSequence (s : State) (c : Int) :
    exec (.pollch c) s = inSequence [.sel c, .readCount c, .convAngle c.toNat, .desel] s := by
  by_cases hl : s.live
  case neg =>
    exact (guarded_inTerminal_of_not_live hl _ _).trans
      (inSequence_refused (i := .sel c) (guarded_inTerminal_of_not_live hl _ _)).symm
  by_cases hc : validId c
  case neg => rw [exec_pollch_of_not_validId hl hc, inSequence_sel_of_not_validId _ hl hc]
  obtain ⟨ch, hch⟩ := Chan.exists_ofId hc
  obtain rfl := Chan.ofId_eq_some.mp hch
  cases hg : s.GPIO_DIR with
  | unconfigured =>
    rw [exec_pollch_of_unconfigured hl hc hg, inSequence_refused (exec_sel_of_unconfigured hl hc hg)]
  | outputs =>
    rw [inSequence_sel _ hl hg, selEffect_of_id, Result.ok_follow, inSequence_withRet rfl]
    rcases linkReady_or_refuses s with hlink | ⟨r, hr⟩
    · have h : (s.select ch).Ready := ⟨hl, hg, hlink⟩
      rw [exec_pollch_of_ready hl hg hlink.1 hlink.2, pollchEffect, selEffect_of_id, Result.ok_andThen,
        inSequence_readCount _ h.live h.link, ← Result.follow_nil]
      refine (Result.follow_eq_andThen fun v t ht => ?_).symm
      have h := h.of_leaves (within_readEffect _ rfl rfl rfl rfl _ _) ht
      have hsample : t.CNT ≠ none := by simp [CNT_of_readEffect ht]
      rw [inSequence_withRet rfl, inSequence_convAngle _ h.live hsample]
      refine Result.follow_eq_andThen fun _ u hu => ?_
      have h := h.of_leaves (within_convEffect _ rfl rfl _ _) hu
      rw [inSequence_withRet rfl, inSequence_desel _ h.live h.outputs]
    · rw [exec_pollch_of_refuses hl hr hc hg,
        inSequence_refused (exec_readCount_of_refuses (s := s.select ch) hl hr hc)]

/-- `READ` notes the check of its id and makes its two exchanges. -/
theorem exec_readCount_eq_inSequence (s : State) (c : Chan) :
    exec (.readCount c.id) s = inSequence [.xcmd .readPos, .xfetch] (s.noteBreach (s.A != s.CFG.pattern c)) := by
  by_cases hl : s.live
  case neg =>
    exact (guarded_inTerminal_of_not_live hl _ _).trans
      (inSequence_refused (i := .xcmd .readPos) (s := s.noteBreach _) (guarded_inTerminal_of_not_live hl _ _)).symm
  rcases linkReady_or_refuses s with hlink | ⟨r, hr⟩
  · rw [exec_readCount_of_ready hl hlink.1 hlink.2, readEffect, Chan.ofId_id,
      inSequence_xcmd (s := s.noteBreach _) _ hl hlink, ← Result.follow_nil]
    refine (Result.follow_eq_andThen fun _ t ht => ?_).symm
    have hw := within_xcmdEffect Kinds.any rfl rfl rfl .readPos (fun _ => rfl) (s.noteBreach (s.A != s.CFG.pattern c))
    rw [ht] at hw
    rw [inSequence_withRet rfl, inSequence_xfetch _ (live_of_within hw hl) (linkReady_of_within hw hlink)]
  · rw [exec_readCount_of_refuses hl hr c.id_range,
      inSequence_refused (exec_xcmd_of_refuses (s := s.noteBreach _) hl hr _)]

/-! Failing transfers (60_exceptions.md R225). -/

section

variable {s : State} {c : Chan} {a : TransferAnswer} {r1 r2 : List Byte} {e1 e2 e : Environment} {haz : Bool}
  (hw : s.CFG.wf = true) (ha : a ≠ .done) (hhaz : haz = true ↔ s.HAZ = true ∨ s.holdsOther c)
include hw ha hhaz

theorem programEffect_of_first_failure (ht : s.ENV.transfer = (a, e)) :
    programEffect c.id s =
      .error .ioError (transferError a 1)
        { s with
          A := s.CFG.pattern c, TXBUF := none, RXBUF := none, HAZ := haz, TRACE := s.TRACE ++ [.drv (s.CFG.pattern c)],
          ENV := e } := by
  rw [programEffect_of_id, bracket_of_failure ht ha (hazard_first_bracket hw hhaz), Result.error_andThen]

variable (hadm : s.admitted = true) (h1 : s.ENV.moves 1 r1 e1)
include hadm h1

theorem programEffect_of_second_failure (hlb : s.loopback = true → r1 = [s.CFG.CMD_SEL_CTRL])
    (ht : e1.transfer = (a, e)) :
    programEffect c.id s =
      .error .ioError (transferError a 1)
        { bracketState s c .selCtrl r1 e1 haz with
          A := s.CFG.pattern c, TRACE := (bracketState s c .selCtrl r1 e1 haz).TRACE ++ [.drv (s.CFG.pattern c)],
          ENV := e } := by
  rw [programEffect_of_id, first_bracket_ok hw hadm h1 hlb hhaz, Result.ok_andThen,
    bracket_of_failure (s := bracketState s c .selCtrl r1 e1 haz) ht ha (hazard_next_bracket hw (.inl ⟨rfl, rfl⟩)),
    Result.error_andThen]
  rfl

theorem programEffect_of_third_failure (h2 : e1.moves 1 r2 e2)
    (hlb : s.loopback = true → r1 = [s.CFG.CMD_SEL_CTRL] ∧ r2 = [s.CFG.CMD_SET_QUAD]) (ht : e2.transfer = (a, e)) :
    programEffect c.id s =
      .error .ioError (transferError a 1)
        { bracketState (bracketState s c .selCtrl r1 e1 haz) c .setQuad r2 e2 haz with
          A := s.CFG.pattern c,
          TRACE := (bracketState (bracketState s c .selCtrl r1 e1 haz) c .setQuad r2 e2 haz).TRACE ++
            [.drv (s.CFG.pattern c)],
          ENV := e } := by
  rw [programEffect_of_id, first_bracket_ok hw hadm h1 (fun h => (hlb h).1) hhaz, Result.ok_andThen,
    second_bracket_ok hw hadm h2 (fun h => (hlb h).2), Result.ok_andThen,
    bracket_of_failure (s := bracketState (bracketState s c .selCtrl r1 e1 haz) c .setQuad r2 e2 haz) ht ha
      (hazard_next_bracket (s := bracketState s c .selCtrl r1 e1 haz) hw (.inr ⟨rfl, rfl⟩))]
  rfl

end

/-- A read whose fetch fails after its command was sent. -/
theorem readEffect_of_fetch_failure {s : State} {c : Chan} {a : TransferAnswer} {r1 : List Byte} {e1 e : Environment}
    {haz : Bool} (hw : s.CFG.wf = true) (ha : a ≠ .done) (hadm : s.admitted = true) (h1 : s.ENV.moves 1 r1 e1)
    (hlb : s.loopback = true → r1 = [s.CFG.CMD_READ_POS])
    (hhaz : haz = true ↔ s.HAZ = true ∨ s.A ≠ s.CFG.SEL_TABLE.get c ∨ s.ENC.get c = .uninitialized)
    (ht : e1.transfer = (a, e)) :
    readEffect c.id s = .error .ioError (transferError a 4) { s.readSent r1 e1 haz with ENV := e } := by
  have hkept := readSent_fetchBreach (s := s) (c := c) (rx := r1) (e := e1) fun hA => hhaz.mpr (.inr (.inl hA))
  rw [readEffect_of_command hw hadm h1 hlb hhaz, xfetchEffect_of_failure (s := s.readSent r1 e1 haz) ht ha]
  change Result.error _ _ { s.readSent r1 e1 haz with HAZ := haz || (s.readSent r1 e1 haz).fetchBreach, ENV := e } = _
  rw [← hkept]
  rfl

/-- Settles O32: the expansions condition by condition, and each failing transfer in its bracket. -/
theorem pseudoOperationsEndAtTheFirstError : Obligations.PseudoOperationsEndAtTheFirstError := by
  unfold Obligations.PseudoOperationsEndAtTheFirstError
  refine ⟨fun s c => ⟨exec_program_eq_inSequence s c, exec_progch_eq_inSequence s c, exec_pollch_eq_inSequence s c,
      fun ch haz hc hhaz => ?read, fun hl hc hg => exec_progch_of_not_validId hl hc hg,
      exec_pollch_of_not_validId⟩,
    fun s c a r1 r2 e1 e2 e haz hl hw hg ho hadm ha hlb hhaz => ?program,
    fun s c a r1 e1 e haz hl hw ho hadm ha hlb hhaz => ⟨fun ht => ?command, fun h1 ht => ?fetch⟩⟩
  case read =>
    rw [hc, exec_readCount_eq_inSequence, hazard_eq_or (b := s.A != s.CFG.pattern ch) hhaz bne_iff_ne]
    rfl
  case program =>
    rw [exec_program_of_ready hl hg ho hadm]
    refine ⟨fun ht => ?_, fun h1 ht => ?_, fun h1 h2 ht => ?_⟩
    · rw [programEffect_of_first_failure hw ha hhaz ht, Result.error_settle]
      simp only [List.append_nil]
      rfl
    · rw [programEffect_of_second_failure hw ha hhaz hadm h1 (fun h => (hlb h).1) ht, Result.error_settle]
      simp only [bracketState, List.append_assoc, List.cons_append, List.nil_append]
      rfl
    · rw [programEffect_of_third_failure hw ha hhaz hadm h1 h2 hlb ht, Result.error_settle]
      simp only [bracketState, List.append_assoc, List.cons_append, List.nil_append]
      rfl
  case command =>
    rw [exec_readCount_of_ready hl ho hadm, readEffect_of_command_failure hw ht ha hhaz, Result.error_settle]
  case fetch =>
    rw [exec_readCount_of_ready hl ho hadm, readEffect_of_fetch_failure hw ha hadm h1 hlb hhaz ht, Result.error_settle]
    rfl

end Sys2Proof.Machine
end

section
/-! PROOFS. The laws of the angle functions (42_encoder_commands.md R166, R167). -/

namespace Sys2Proof

/-! The binary64 product. -/

theorem nearestF64_le (num den : Nat) : nearestF64 num den ≤ 0x7FF0000000000000 := by
  unfold nearestF64
  split
  · exact Nat.zero_le _
  · exact Nat.min_le_right _ _

theorem toNat_ofNat_nearestF64 (num den : Nat) : (BitVec.ofNat 64 (nearestF64 num den)).toNat = nearestF64 num den := by
  rw [BitVec.toNat_ofNat, Nat.mod_eq_of_lt (Nat.lt_of_le_of_lt (nearestF64_le num den) (by decide))]

theorem mulCountF64_zero (scale : BitVec 64) : mulCountF64 0 scale = 0 := by
  simp [mulCountF64, nearestF64]

theorem mulCountF64_toNat_le (n : Count32) (scale : BitVec 64) :
    (mulCountF64 n scale).toNat ≤ 0x7FF0000000000000 := by
  rw [mulCountF64, toNat_ofNat_nearestF64]
  exact nearestF64_le _ _

theorem mulCountF64_mono {m n : Count32} (h : m.toNat ≤ n.toNat) (scale : BitVec 64) :
    (mulCountF64 m scale).toNat ≤ (mulCountF64 n scale).toNat := by
  rw [mulCountF64, mulCountF64, toNat_ofNat_nearestF64, toNat_ofNat_nearestF64]
  exact nearestF64_mono (Nat.two_pow_pos _) (Nat.mul_le_mul_right _ (Nat.mul_le_mul_right _ h))

/-- The scale of the reference configuration, 0.045 degrees per count, as a binary64 (10_state.md R31). -/
theorem toF64_reference : (Scale.rational { num := 9, den := 200 }).toF64 = 0x3FA70A3D70A3D70A := by decide +kernel

/-- The products of R167 and R168: 8000 counts are exactly 360 degrees. -/
theorem mulCountF64_reference :
    mulCountF64 8000 0x3FA70A3D70A3D70A = 0x4076800000000000 ∧ mulCountF64 5 0x3FA70A3D70A3D70A = 0x3FCCCCCCCCCCCCCC ∧
      mulCountF64 4294967295 0x3FA70A3D70A3D70A = 0x41A70A3D708CCCCD := by decide +kernel

/-! The product, exactly. -/

/-- A count times a rational scale: value and lowest terms. -/
theorem times_rational_spec (q : PosRatio) (n : Nat) :
    0 < ((Scale.rational q).times n).den ∧
      ((Scale.rational q).times n).num * q.den = n * q.num * ((Scale.rational q).times n).den ∧
      Nat.Coprime ((Scale.rational q).times n).num.natAbs ((Scale.rational q).times n).den :=
  Ratio.of_spec _ _ (by exact_mod_cast q.positive.2)

/-- Products by a positive number are compared as their factors. -/
theorem times_le_times (scale : Scale) {m n : Nat} (h : m ≤ n) : (scale.times m).le (scale.times n) := by
  cases scale with
  | irrational e which => simpa [Ratio.le] using h
  | rational q =>
    obtain ⟨-, hm, -⟩ := times_rational_spec q m
    obtain ⟨-, hn, -⟩ := times_rational_spec q n
    generalize (Scale.rational q).times m = x at hm
    generalize (Scale.rational q).times n = y at hn
    have hden : (0 : Int) < q.den := by exact_mod_cast q.positive.2
    refine le_of_mul_le_mul_right ?_ hden
    calc x.num * y.den * q.den = m * (q.num * x.den * y.den) := by linear_combination (y.den : Int) * hm
      _ ≤ n * (q.num * x.den * y.den) := by gcongr
      _ = y.num * x.den * q.den := by linear_combination -(x.den : Int) * hn

/-- The product keeps the laws, whatever the scale. -/
theorem angleLaws_times (scale : Scale) : AngleLaws scale fun n => scale.times n.toNat := by
  refine ⟨?_, rfl, fun m n h => times_le_times scale h, fun n => ?_⟩
  · cases scale with
    | irrational e which => rfl
    | rational q =>
      obtain ⟨-, hvalue, hcoprime⟩ := times_rational_spec q (0 : Count32).toNat
      have hden : q.den ≠ 0 := q.positive.2.ne'
      exact Machine.ratio_eq_zero (by simpa [hden] using hvalue) hcoprime
  · cases scale with
    | irrational e which => simp
    | rational q =>
      obtain ⟨hden, -, hcoprime⟩ := times_rational_spec q n.toNat
      exact ⟨hden, hcoprime⟩

theorem angleLaws_lawfulAngle (scale : Scale) : AngleLaws scale (lawfulAngle scale) := by
  unfold lawfulAngle
  split
  · assumption
  · exact angleLaws_times scale

/-- Outside binary64 the angle is a lawful function of the count, in the unit of the scale. -/
theorem exists_angleLaws {cfg : Cfg} (h : cfg.ANGLE_FN ≠ .binary64) :
    ∃ f, AngleLaws cfg.SCALE f ∧ (∀ n, angleOf cfg n = cfg.SCALE.angle (f n)) ∧
      (cfg.ANGLE_FN = .exactProduct → ∀ n, f n = cfg.SCALE.times n.toNat) := by
  cases hf : cfg.ANGLE_FN with
  | binary64 => exact absurd hf h
  | exactProduct => exact ⟨_, angleLaws_times cfg.SCALE, fun n => by simp only [angleOf, hf], fun _ _ => rfl⟩
  | uninterpreted =>
    exact ⟨_, angleLaws_lawfulAngle cfg.SCALE, fun n => by simp only [angleOf, hf], fun h => by cases h⟩

/-- Settles O35: the product of binary64 by its rounding, and the other functions by the laws they are chosen to
keep. -/
theorem angleFunctionsKeepTheirLaws : Obligations.AngleFunctionsKeepTheirLaws := by
  unfold Obligations.AngleFunctionsKeepTheirLaws
  refine fun cfg => ⟨fun hf => ?binary64, fun hf => ?lawful⟩
  case binary64 =>
    refine ⟨fun n => mulCountF64 n cfg.SCALE.toF64, fun n => by simp only [angleOf, hf], mulCountF64_zero _,
      fun m n h => mulCountF64_mono h _, fun n => mulCountF64_toNat_le n _, fun hscale => ?_⟩
    rw [hscale, toF64_reference]
    exact ⟨rfl, mulCountF64_reference⟩
  case lawful =>
    obtain ⟨f, ⟨hzero, hturn, hmono, hlowest⟩, hangle, hproduct⟩ := exists_angleLaws hf
    refine ⟨f, hlowest, hzero, fun m n h => hmono m n h, fun q hscale => ?_, fun e which hscale => ?_⟩
    · rw [hscale] at hturn hangle hproduct
      refine ⟨hangle, ?_, fun hexact n => ?_⟩
      · rw [hturn]
        exact (times_rational_spec q 8000).2.1
      · rw [hproduct hexact]
        exact (times_rational_spec q n.toNat).2.1
    · rw [hscale] at hturn hangle hproduct
      exact ⟨hangle, hturn, hproduct⟩

end Sys2Proof
end
